-- ==== Sys2Proof/Word.lean ====
section
/-! DEFINITION. The word types of PCODEC (spec/00_scope.md R5, R6): all values are unsigned bit vectors. -/

namespace Sys2Proof

/-- A register of the REG space, a command word, a checksum: 32 bits (R5 "register width", "command word width"). -/
abbrev Word := BitVec 32

/-- One byte of BUF, a flags byte (R6, R50). -/
abbrev Byte := BitVec 8

/-- A host's address in the BUF space: 10 bits (R5 "BUF address width", R50). -/
abbrev BufAddr := BitVec 10

/-- A register number of the REG space: 3 bits (R34, R50). -/
abbrev RegNum := BitVec 3

end Sys2Proof
end

