-- ==== Sys2Proof/Config.lean ====
section
/-! DEFINITION. What one hardware instance fixes (spec/00_scope.md R5, spec/10_state.md R38), and the free values: what the
spec leaves unspecified (spec/93_implementation_defined.md S1 to S4). A free value is an opaque constant: nothing in Lean can
evaluate it, so a theorem that mentions one holds whatever it is. -/

namespace Sys2Proof

/-- The parameters of R5 as a configuration record. The instance that is this hardware is `Machine.pcodec`; the shared
operations take a `Config`, so that a law can be stated for every checksum function (R110). -/
structure Config where
  /-- `BUF_SIZE`: bytes in the packet buffer. -/
  bufSize : Nat
  /-- `CK_OFF`: offset of the checksum field. -/
  ckOff : Nat
  /-- `CK_SIZE`: bytes in the checksum field. -/
  ckSize : Nat
  /-- `FLAG_OFF`: offset of the flags byte. -/
  flagOff : Nat
  /-- `HDR_SIZE`: bytes in the header. -/
  hdrSize : Nat
  /-- `PAY_OFF`: offset of the first payload byte. -/
  payOff : Nat
  /-- `MAX_PAYLOAD`: payload capacity. -/
  maxPayload : Nat
  /-- `ACK_MASK`: flags bit 0. -/
  ackMask : Byte
  /-- `FIN_MASK`: flags bit 1. -/
  finMask : Byte
  /-- `ACK_LEN`: bytes in an acknowledgment datagram. -/
  ackLen : Nat
  /-- `FILL`: the byte ENCODE writes beyond the payload (D5). -/
  fill : Byte
  /-- `CRC32`: the checksum function, a total function from byte sequences to 32 bits (R110, D1). -/
  crc32 : List Byte → Word

/-- The constraints of R5's table. `ckSize_eq` is none of them: R5 gives CK_SIZE the meaning "bytes in the checksum field
(32 bits)", hence four bytes (log entry 17: DEDUCED). -/
structure Config.Consistent (P : Config) : Prop where
  bufSize_gt : P.hdrSize < P.bufSize
  bufSize_addressable : P.bufSize ≤ 2 ^ 10
  ckSize_eq : P.ckSize = 4
  flagOff_eq : P.flagOff = P.ckOff + P.ckSize
  hdrSize_eq : P.hdrSize = P.flagOff + 1
  payOff_eq : P.payOff = P.hdrSize
  maxPayload_eq : P.maxPayload = P.bufSize - P.hdrSize
  ackMask_bit : ∃ k, k < 8 ∧ P.ackMask = 1#8 <<< k
  finMask_bit : ∃ k, k < 8 ∧ P.finMask = 1#8 <<< k
  masks_differ : P.finMask ≠ P.ackMask
  ackLen_eq : P.ackLen = P.hdrSize

/-! Free values. Each is applied to the counter `State.draws`, which the step advances, so that two draws are two values. -/

/-- What byte `addr` of BUF holds after a `Reset` step or a `BusyFault` (S1, S2; R39, R186, R210). -/
opaque Config.freeBufByte : (draw addr : Nat) → Byte

/-- ACC after a `BusyFault` (S2, R186). -/
opaque Config.freeAcc : (draw : Nat) → Word

/-- CHK after a `BusyFault` (S2, R186). -/
opaque Config.freeChk : (draw : Nat) → Word

/-- FLG after a `BusyFault` (S2, R186). -/
opaque Config.freeFlg : (draw : Nat) → Byte

/-- PLEN after a `BusyFault` (S2, R186). -/
opaque Config.freePlen : (draw : Nat) → BitVec 10

/-- TXLEN after a `BusyFault` (S2, R186). -/
opaque Config.freeTxlen : (draw : Nat) → BitVec 10

/-- STATUS.VALID after a `BusyFault` (S2, R186). -/
opaque Config.freeValid : (draw : Nat) → Bool

/-- STATUS.T after a `BusyFault` (S2, R186). -/
opaque Config.freeT : (draw : Nat) → Bool

/-- The byte a `BufRead` returns where the spec says it is unspecified (S3; R51, R185). -/
opaque Config.freeReplyByte : (draw : Nat) → Byte

/-- The word a `RegRead` returns where the spec says it is unspecified (S3; R53). -/
opaque Config.freeReplyWord : (draw : Nat) → Word

/-- `LATENCY` (S4; R5, R221, D13): how many turns pass between the issue of a command and its completion, for a command
whose latency the state's own list `State.latencies` does not give. It is finite, being a number, and otherwise unknown. -/
opaque Config.latency : (draw : Nat) → Nat

end Sys2Proof
end

