-- ==== Sys2Proof/Machine/Crc.lean ====
section
/-! DEFINITION. The checksum function CRC-32/ISO-HDLC (spec/40_checksum.md R110 to R114), in the reflected form, and the
instance of the configuration record that is this hardware (spec/00_scope.md R5). -/

namespace Sys2Proof.Machine

/-- The polynomial 0x04C11DB7 with its 32 bits reversed (R112). UNVERIFIED (log entry 8):
the spec itself takes the variant of the checksum from general knowledge. -/
def crcPoly : Word := 0xEDB88320#32

/-- `crc_init` (R111). -/
def crcInit : Word := 0xFFFFFFFF#32

/-- One of the eight iterations of R112: shift right by one; if bit 0 was 1, exclusive-or the polynomial. -/
def crcBit (c : Word) : Word := if c.getLsbD 0 then (c >>> 1) ^^^ crcPoly else c >>> 1

/-- `k` iterations of R112. -/
def crcBits : Nat → Word → Word
  | 0, c => c
  | k + 1, c => crcBits k (crcBit c)

/-- `crc_update(c, b)` (R112). -/
def crcUpdate (c : Word) (b : Byte) : Word := crcBits 8 (c ^^^ b.setWidth 32)

/-- `crc_final(c)` (R113). -/
def crcFinal (c : Word) : Word := c ^^^ 0xFFFFFFFF#32

/-- `crc32(b_0, …, b_{k-1})` (R114): byte 0 first. -/
def crc32 (bytes : List Byte) : Word := crcFinal (bytes.foldl crcUpdate crcInit)

/-- This hardware's parameters (R5). -/
def pcodec : Config where
  bufSize := 1000
  ckOff := 0
  ckSize := 4
  flagOff := 4
  hdrSize := 5
  payOff := 5
  maxPayload := 995
  ackMask := 0x01#8
  finMask := 0x02#8
  ackLen := 5
  fill := 0x00#8
  crc32 := crc32

end Sys2Proof.Machine
end

