-- ==== Sys2Proof/Syntax.lean ====
section
/-! DEFINITION. The ten commands (spec/30_encoding.md R88), the pseudo-instructions (R93), the host steps (R8) and the
lines of a host script (R94), as terms. -/

namespace Sys2Proof

/-- The commands, one constructor per row of the opcode map R88. A length operand is a number (R87: "`n` and `length`
are `L` as a number 0..1023"), a flags byte is a byte, `F` and `P` are one bit. -/
inductive Instr where
  /-- `CKCLR` (R119): write zero into the checksum field. -/
  | ckclr
  /-- `CKSUM` (R120): compute the checksum of the buffer into ACC. -/
  | cksum
  /-- `CKPUT` (R121): store ACC into the checksum field. -/
  | ckput
  /-- `CKGET` (R122): load the checksum field into CHK. -/
  | ckget
  /-- `ENCODE n, F` (R142): marshal a data packet of `n` payload bytes. -/
  | encode (n : Nat) (isFin : Bool)
  /-- `DECODE length` (R144): unmarshal the header of a datagram of `length` bytes. -/
  | decode (length : Nat)
  /-- `VERIFY` (R145): validate the packet in BUF. -/
  | verify
  /-- `ISSET.ACK f` (R146): test the ACK bit of a flags byte. -/
  | issetAck (f : Byte)
  /-- `ISSET.FIN f` (R147): test the FIN bit of a flags byte. -/
  | issetFin (f : Byte)
  /-- `MKACK P` (R148): marshal an acknowledgment header. -/
  | mkack (positive : Bool)
  deriving DecidableEq, Repr

/-- The pseudo-instructions of R93; each is another name of one command, or of none. -/
inductive Pseudo where
  | ackp
  | ackn
  /-- `ISSET f, m`: it assembles for the two masks that have a command, and for no other. -/
  | isset (f m : Byte)
  | encodeFin (n : Nat)
  | encodeData (n : Nat)
  deriving DecidableEq, Repr

/-- The five host steps (R8; R51 to R54, R210). Each is one atomic access. -/
inductive HostStep where
  | reset
  | regRead (r : RegNum)
  | regWrite (r : RegNum) (v : Word)
  | bufRead (a : BufAddr)
  | bufWrite (a : BufAddr) (b : Byte)
  deriving DecidableEq, Repr

/-- One line of what the host still has to do (R94): a host step, or `WAIT`, which reads STATUS until it shows
`BUSY = 0`. -/
inductive HostItem where
  | act (h : HostStep)
  | wait
  deriving DecidableEq, Repr

end Sys2Proof
end

