-- ==== Sys2Proof/WellFormed.lean ====
section
/-! DEFINITION. Which terms of Instr are commands: the operands that fit their field (spec/30_encoding.md R81, R87). -/

namespace Sys2Proof

/-- An operand fits its field: a length operand is a number 0..1023, the 10 bits of `L` (R81, R87). A byte and a bit
always fit. The bounds 995, 5 and 1000 are no part of this: such a command decodes and then faults on its operand (R89). -/
def Instr.wellFormed : Instr → Bool
  | .ckclr => true
  | .cksum => true
  | .ckput => true
  | .ckget => true
  | .encode n _ => decide (n < 1024)
  | .decode length => decide (length < 1024)
  | .verify => true
  | .issetAck _ => true
  | .issetFin _ => true
  | .mkack _ => true

end Sys2Proof
end

