-- ==== Sys2Proof/Decode.lean ====
section
/-! DEFINITION. The command word: its fields (spec/30_encoding.md R81), the opcode map R88 as rows, the total decoder R91
that rejects by name, the encoder, the pseudo-instructions R93 and the textual form R92. -/

namespace Sys2Proof

/-! ## Fields of a word (R81, R87) -/

/-- `OP = W[3:0]`. -/
def opField (w : Word) : BitVec 4 := w.extractLsb' 0 4

/-- `Z0 = W[7:4]`, reserved. -/
def z0Field (w : Word) : BitVec 4 := w.extractLsb' 4 4

/-- `A = W[15:8]`, the byte operand. -/
def aField (w : Word) : Byte := w.extractLsb' 8 8

/-- `L = W[25:16]`, the length operand. -/
def lField (w : Word) : BitVec 10 := w.extractLsb' 16 10

/-- `Z1 = W[31:26]`, reserved. -/
def z1Field (w : Word) : BitVec 6 := w.extractLsb' 26 6

/-- `A[0] = W[8]`, the one-bit option `F` or `P` (R87). -/
def optionBit (w : Word) : Bool := w.getLsbD 8

/-- `W = (L << 16) | (A << 8) | OP`, the reserved fields being 0 (R81). -/
def assemble (l : BitVec 10) (a : Byte) (op : BitVec 4) : Word :=
  (l.setWidth 32 <<< 16) ||| (a.setWidth 32 <<< 8) ||| op.setWidth 32

/-- A one-bit option as the byte operand `A`: `A[0]` is the bit, `A[7:1]` is 0 (R83, R86). -/
def optionByte (b : Bool) : Byte := if b then 1#8 else 0#8

/-! ## The opcode map -/

/-- A row of R88: the word `W` is this command if and only if `W & mask = pattern`. -/
structure Row where
  mnemonic : String
  pattern  : Word
  mask     : Word
  read     : Word → Instr

/-- `W & mask = pattern`. -/
def Row.covers (r : Row) (w : Word) : Bool := w &&& r.mask == r.pattern

/-- The ten rows of R88, in its order. -/
def rows : List Row :=
  [ ⟨"CKCLR",     0x00000001#32, 0xFFFFFFFF#32, fun _ => .ckclr⟩,
    ⟨"CKSUM",     0x00000002#32, 0xFFFFFFFF#32, fun _ => .cksum⟩,
    ⟨"CKPUT",     0x00000003#32, 0xFFFFFFFF#32, fun _ => .ckput⟩,
    ⟨"CKGET",     0x00000004#32, 0xFFFFFFFF#32, fun _ => .ckget⟩,
    ⟨"ENCODE",    0x00000008#32, 0xFC00FEFF#32, fun w => .encode (lField w).toNat (optionBit w)⟩,
    ⟨"DECODE",    0x00000009#32, 0xFC00FFFF#32, fun w => .decode (lField w).toNat⟩,
    ⟨"VERIFY",    0x0000000A#32, 0xFFFFFFFF#32, fun _ => .verify⟩,
    ⟨"ISSET.ACK", 0x0001000B#32, 0xFFFF00FF#32, fun w => .issetAck (aField w)⟩,
    ⟨"ISSET.FIN", 0x0002000B#32, 0xFFFF00FF#32, fun w => .issetFin (aField w)⟩,
    ⟨"MKACK",     0x0000000C#32, 0xFFFFFEFF#32, fun w => .mkack (optionBit w)⟩ ]

/-! ## Decoding -/

/-- Why a word is illegal (R89). The machine's reaction is the same for all: `IllegalCommand`. -/
inductive Illegal where
  /-- `Z1 != 0`. -/
  | z1NotZero
  /-- `Z0 != 0`. -/
  | z0NotZero
  /-- `OP` is a reserved opcode. -/
  | reservedOpcode
  /-- A format Z command with `A != 0` or `L != 0`. -/
  | operandOfFormatZ
  /-- `ENCODE` or `MKACK` with `A[7:1] != 0`. -/
  | optionByteReserved
  /-- `MKACK` with `L != 0`. -/
  | lengthOfMkack
  /-- `DECODE` with `A != 0`. -/
  | byteOfDecode
  /-- `OP = 0xB` with `L[9:8] != 0` or with a mask that is neither 0x01 nor 0x02. -/
  | maskReserved
  deriving DecidableEq, Repr

/-- The name under which a word that matches no row is rejected. Several classes of R89 can hold of one word; the order
in which they are looked at is the model's (log entry 12) and no state shows it. -/
def illegalReason (w : Word) : Illegal :=
  if z1Field w != 0#6 then .z1NotZero
  else if z0Field w != 0#4 then .z0NotZero
  else match (opField w).toNat with
    | 1 | 2 | 3 | 4 | 10 => .operandOfFormatZ
    | 8 => .optionByteReserved
    | 9 => .byteOfDecode
    | 11 => .maskReserved
    | 12 => if lField w != 0#10 then .lengthOfMkack else .optionByteReserved
    | _ => .reservedOpcode

/-- `Decode(W)` (R91): the row that covers the word, with its operands; else the word is illegal. -/
def decode (w : Word) : Except Illegal Instr :=
  match rows.find? (·.covers w) with
  | some r => .ok (r.read w)
  | none => .error (illegalReason w)

/-! ## Encoding -/

/-- `Encode(c)` (R91; formats R82 to R86; opcodes R88). -/
def encode : Instr → Word
  | .ckclr => assemble 0#10 0#8 0x1#4
  | .cksum => assemble 0#10 0#8 0x2#4
  | .ckput => assemble 0#10 0#8 0x3#4
  | .ckget => assemble 0#10 0#8 0x4#4
  | .encode n isFin => assemble (BitVec.ofNat 10 n) (optionByte isFin) 0x8#4
  | .decode length => assemble (BitVec.ofNat 10 length) 0#8 0x9#4
  | .verify => assemble 0#10 0#8 0xA#4
  | .issetAck f => assemble 1#10 f 0xB#4
  | .issetFin f => assemble 2#10 f 0xB#4
  | .mkack positive => assemble 0#10 (optionByte positive) 0xC#4

/-- The instruction the decoder reads from a table row's word: every command is one 32-bit word, and every bit above
`nbits` is 0 (R80; log entry 13: DEDUCED). -/
def decodeTableWord (nbits w : Nat) : Option Instr :=
  let bits := w % 2 ^ nbits
  if bits < 2 ^ 32 then (decode (BitVec.ofNat 32 bits)).toOption else none

/-! ## Pseudo-instructions and text -/

/-- The command a pseudo-instruction abbreviates (R93); none where it does not assemble. -/
def Pseudo.expand : Pseudo → Option Instr
  | .ackp => some (.mkack true)
  | .ackn => some (.mkack false)
  | .isset f m => if m = 0x01#8 then some (.issetAck f) else if m = 0x02#8 then some (.issetFin f) else none
  | .encodeFin n => some (.encode n true)
  | .encodeData n => some (.encode n false)

/-- A flags byte in hexadecimal (R92; log entry 15: DESIGN CHOICE). -/
def byteText (b : Byte) : String :=
  let digits := Nat.toDigits 16 b.toNat
  "0x" ++ String.ofList (List.replicate (2 - digits.length) '0' ++ digits.map Char.toUpper)

/-- A one-bit operand in text: 0 or 1 (R92). -/
def bitText (b : Bool) : String := if b then "1" else "0"

/-- The textual form of a command (R92). -/
def Instr.text : Instr → String
  | .ckclr => "CKCLR"
  | .cksum => "CKSUM"
  | .ckput => "CKPUT"
  | .ckget => "CKGET"
  | .encode n isFin => "ENCODE " ++ toString n ++ ", " ++ bitText isFin
  | .decode length => "DECODE " ++ toString length
  | .verify => "VERIFY"
  | .issetAck f => "ISSET.ACK " ++ byteText f
  | .issetFin f => "ISSET.FIN " ++ byteText f
  | .mkack positive => "MKACK " ++ bitText positive

end Sys2Proof
end

