-- ==== Sys2Proof/Machine/State.lean ====
section
/-! DEFINITION. The state of PCODEC (spec/10_state.md R20) and of the one host that drives it, as plain data; its value after
reset (R39); the reasons a step can stop. -/

namespace Sys2Proof.Machine

/-- The packet buffer: the bytes that differ from what an unlisted address reads as (`Memory.unlisted`), in rising order of
address. `Memory.wf` says the form. -/
abbrev Memory := List Host.Cell

/-- What the host's last step gave back: a byte of BUF or a register's word (R51, R53). -/
inductive Reply where
  | byte (b : Byte)
  | word (w : Word)
  deriving DecidableEq, Repr

/-- The five causes of a PCODEC fault (spec/60_exceptions.md R181). A PCODEC fault is a next state, not a stop of the model. -/
inductive FaultCause where
  | illegalCommand
  | capacityFault
  | lengthFault
  | bufferRange
  | busyFault
  deriving DecidableEq, Repr

/-- The engine's phase, a function of two flags (R20). -/
inductive Phase where
  | idle
  | busy
  | faulted
  deriving DecidableEq, Repr

structure State where
  /-- `BUF[0..999]` (R21). -/
  buf : Memory
  /-- The checksum accumulator (R22). -/
  acc : Word
  /-- The checksum field as last read from BUF (R23). -/
  chk : Word
  /-- The flags byte as last read from BUF (R24). -/
  flg : Byte
  /-- Payload length in bytes (R25). -/
  plen : BitVec 10
  /-- Length of the datagram ready to transmit (R26). -/
  txlen : BitVec 10
  /-- Fault information (R33). -/
  finfo : Word
  /-- The last accepted command word; while BUSY, the in-flight command (R27, R37). -/
  cmdr : Word
  /-- `STATUS.BUSY` (R29). -/
  busy : Bool
  /-- `STATUS.FAULT` (R30). -/
  fault : Bool
  /-- `STATUS.CAUSE` (R30). -/
  cause : BitVec 3
  /-- `STATUS.VALID` (R31). -/
  valid : Bool
  /-- `STATUS.T` (R32). -/
  t : Bool
  /-- The model's own (log entry 2): what the host still has to do, the next line first (R94). -/
  host : List HostItem
  /-- The model's own (log entry 3): what the host's last step gave back; none where it gives nothing back. -/
  reply : Option Reply
  /-- The model's own (log entry 4): turns left before the in-flight command completes; 0 when none is in flight. -/
  delay : Nat
  /-- The model's own (log entry 4): the latencies of the commands still to be issued, as far as they are given. -/
  latencies : List Nat
  /-- The model's own (log entry 5): how many draws of free values have been made. -/
  draws : Nat
  deriving DecidableEq, Repr

/-- The machine right after reset (R39): every register and flag 0, phase IDLE. The spec leaves BUF unspecified; nothing is
listed here, so every byte reads as `Memory.unlisted` (log entry 1: DESIGN CHOICE, unsafe). The host has nothing to do and
no latency is given. -/
def State.reset : State where
  buf := []
  acc := 0#32
  chk := 0#32
  flg := 0#8
  plen := 0#10
  txlen := 0#10
  finfo := 0#32
  cmdr := 0#32
  busy := false
  fault := false
  cause := 0#3
  valid := false
  t := false
  host := []
  reply := none
  delay := 0
  latencies := []
  draws := 0

/-- Why the model stops. No PCODEC fault is here: those are states (R188). -/
inductive Fault where
  /-- Raised by the engine's step when CMDR holds a word that decodes to no command while BUSY is set. R96: `Decode(x[CMDR])`
  is "never Illegal: only legal words are stored while BUSY", so no run from a reset reaches it (the invariant `Invariant` rules it
  out). Safe: the model stops where the spec says nothing (log entry 6). -/
  | undecodableInFlight
  deriving DecidableEq, Repr

/-- Why an instruction has no meaning. -/
inductive Refusal where
  /-- Raised by `exec`'s arm of an instruction that has no meaning yet. Safe: the model stops. No arm raises it. -/
  | notModelled (mnemonic : String)
  deriving DecidableEq, Repr

end Sys2Proof.Machine
end

