-- ==== Sys2Proof/Machine/Operands.lean ====
section
/-! DEFINITION. What the operands of a command stand for, and the checks made on them (spec/30_encoding.md R87;
spec/20_memory.md R54; spec/41_codec.md R142, R144, R148). -/

namespace Sys2Proof.Machine

/-- The operand fault of a command (R54): `ENCODE` with `n > MAX_PAYLOAD` (R183), `DECODE` with `length < HDR_SIZE` or
`length > BUF_SIZE` (R184); none for every other command. -/
def operandFault (P : Config) : Instr → Option FaultCause
  | .encode n _ => if P.maxPayload < n then some .capacityFault else none
  | .decode length => if length < P.hdrSize ∨ P.bufSize < length then some .lengthFault else none
  | .ckclr | .cksum | .ckput | .ckget | .verify | .issetAck _ | .issetFin _ | .mkack _ => none

/-- The flags byte of a data packet: the FIN bit if `isFin`, else 0 (R142, D17). -/
def finFlags (P : Config) (isFin : Bool) : Byte := if isFin then P.finMask else 0#8

/-- The flags byte of an acknowledgment: the ACK bit on success, else 0 (R148, D17). -/
def ackFlags (P : Config) (positive : Bool) : Byte := if positive then P.ackMask else 0#8

/-- A length in bytes as the 10-bit value PLEN and TXLEN hold (R25, R26). DESIGN CHOICE (log entry 19): R5 admits a
configuration with `BUF_SIZE = 1024`, which ten bits do not hold; what `ENCODE` then writes to TXLEN is not stated, and the
model keeps the low ten bits, 0. Every other length of a configuration that meets R5 fits; on this hardware all do. -/
def lengthBits (n : Nat) : BitVec 10 := BitVec.ofNat 10 n

/-- The payload's length in a datagram of `length` bytes: `length - 5` (R144). -/
def payloadLength (P : Config) (length : Nat) : BitVec 10 := lengthBits (length - P.hdrSize)

end Sys2Proof.Machine
end

