-- ==== Sys2Proof/Machine/Flags.lean ====
section
/-! DEFINITION. The condition flags and the STATUS word (spec/10_state.md R28, R31, R32; spec/41_codec.md R141, R145). -/

namespace Sys2Proof.Machine

/-- `isSet(f, m)`: `(f & m) != 0` (R141). -/
def isSet (f m : Byte) : Bool := f &&& m != 0#8

/-- `VALID`: the recomputed checksum equals the stored field (R145). -/
def checksumMatches (computed stored : Word) : Bool := computed == stored

/-- The code of a cause in `STATUS.CAUSE` (R181). -/
def FaultCause.code : FaultCause → BitVec 3
  | .illegalCommand => 1#3
  | .capacityFault => 2#3
  | .lengthFault => 3#3
  | .bufferRange => 4#3
  | .busyFault => 5#3

/-- The STATUS word of `RegRead(1)` (R28): BUSY, FAULT, VALID, T at bits 0 to 3, CAUSE at bits 6:4, the rest 0. -/
def statusWord (s : State) : Word :=
  (BitVec.ofBool s.busy).setWidth 32 ||| ((BitVec.ofBool s.fault).setWidth 32 <<< 1) |||
    ((BitVec.ofBool s.valid).setWidth 32 <<< 2) ||| ((BitVec.ofBool s.t).setWidth 32 <<< 3) |||
    (s.cause.setWidth 32 <<< 4)

/-- The phase (R20): FAULTED when `FAULT = 1`; else BUSY when `BUSY = 1`; else IDLE. -/
def State.phase (s : State) : Phase :=
  if s.fault then .faulted else if s.busy then .busy else .idle

end Sys2Proof.Machine
end

