-- ==== Sys2Proof/Machine/Ops.lean ====
section
/-! DEFINITION. The shared operations: bytes of BUF (spec/20_memory.md R55 to R57), the checksum of the buffer (R116), taking a
fault and the reset that is the only way back from one (spec/60_exceptions.md R188, R190; R210), accepting a command (R54). -/

namespace Sys2Proof.Machine

/-! ## Memory -/

/-- What a byte that nothing has written since State.reset reads as (log entry 1: DESIGN CHOICE). -/
def Memory.unlisted : Byte := 0x00#8

/-- The canonical form: addresses strictly rising and inside BUF (R21), no entry equal to what an unlisted address reads as. -/
abbrev Memory.wf (m : Memory) : Prop :=
  m.Pairwise (fun x y => x.1 < y.1) ∧ ∀ cell ∈ m, cell.1 < pcodec.bufSize ∧ cell.2 ≠ Memory.unlisted

/-- `BUF[a]` (R7). -/
def Memory.read : Memory → Nat → Byte
  | [], _ => Memory.unlisted
  | (k, b) :: m, a => if k = a then b else Memory.read m a

/-- The memory with nothing listed at `a`. -/
def Memory.erase (m : Memory) (a : Nat) : Memory := m.filter (fun cell => cell.1 != a)

/-- An entry put before the first one of a higher address. -/
def Memory.insert (a : Nat) (b : Byte) : Memory → Memory
  | [] => [(a, b)]
  | (k, c) :: m => if a < k then (a, b) :: (k, c) :: m else (k, c) :: Memory.insert a b m

/-- `BUF[a] <- b` (R7, R57). -/
def Memory.write (m : Memory) (a : Nat) (b : Byte) : Memory :=
  if b = Memory.unlisted then m.erase a else Memory.insert a b (m.erase a)

/-- `MemRead(a, 4)`: big-endian (R55). -/
def Memory.read4 (m : Memory) (a : Nat) : Word :=
  ((Memory.read m a).setWidth 32 <<< 24) ||| ((Memory.read m (a + 1)).setWidth 32 <<< 16) |||
    ((Memory.read m (a + 2)).setWidth 32 <<< 8) ||| (Memory.read m (a + 3)).setWidth 32

/-- `MemWrite(a, 4, v)`: big-endian (R56). -/
def Memory.write4 (m : Memory) (a : Nat) (v : Word) : Memory :=
  Memory.write (Memory.write (Memory.write (Memory.write m a (v.extractLsb' 24 8))
    (a + 1) (v.extractLsb' 16 8)) (a + 2) (v.extractLsb' 8 8)) (a + 3) (v.extractLsb' 0 8)

/-- `BUF[lo .. lo+n-1]` in ascending order (R7). -/
def Memory.slice (m : Memory) (lo n : Nat) : List Byte := (List.range' lo n).map (Memory.read m)

/-- `for i = lo .. BUF_SIZE-1: BUF[i] <- FILL` (R142). -/
@[irreducible] def Memory.fillFrom (P : Config) (m : Memory) (lo : Nat) : Memory :=
  (List.range' lo (P.bufSize - lo)).foldl (fun m i => Memory.write m i P.fill) m

/-- A buffer of which every byte is a free value (S1, S2; R39, R186). -/
@[irreducible] def Memory.unspecified (P : Config) (draw : Nat) : Memory :=
  (List.range' 0 P.bufSize).foldl (fun m i => Memory.write m i (Config.freeBufByte draw i)) []

/-- `buf_crc(BUF)` (R116): the checksum function on the whole buffer, zero bytes in place of the checksum field. DESIGN CHOICE
(log entry 18): R5 lets a configuration have `CK_OFF > 0` and R116 speaks of offset 0 only; the bytes below the field are
then part of the checksum, as they are. On this hardware `CK_OFF = 0` and there are none. -/
@[irreducible] def bufCrc (P : Config) (m : Memory) : Word :=
  P.crc32 (Memory.slice m 0 P.ckOff ++ List.replicate P.ckSize 0x00#8 ++
    Memory.slice m (P.ckOff + P.ckSize) (P.bufSize - (P.ckOff + P.ckSize)))

/-! ## Views of the packet (R40, R69) -/

/-- The checksum field of the packet in BUF (R40). -/
def State.checksumField (s : State) : Word := Memory.read4 s.buf pcodec.ckOff

/-- The flags byte of the packet in BUF (R40). -/
def State.flagsByte (s : State) : Byte := Memory.read s.buf pcodec.flagOff

/-- The payload of the packet last marshalled or unmarshalled: `BUF[5 .. 5+PLEN-1]` (R25). -/
def State.payload (s : State) : List Byte := Memory.slice s.buf pcodec.payOff s.plen.toNat

/-- The datagram ready to transmit: `BUF[0 .. TXLEN-1]` (R26, R69). -/
def State.datagram (s : State) : List Byte := Memory.slice s.buf 0 s.txlen.toNat

/-! ## Taking a fault, and the way back -/

/-- Fault entry (R188): FAULT, CAUSE and FINFO are written and BUSY is cleared. -/
def State.enterFault (cause : FaultCause) (info : Word) (s : State) : State :=
  { s with fault := true, cause := cause.code, finfo := info, busy := false, delay := 0 }

/-- What a `BusyFault` leaves unspecified (R186; log entries 5 and 16): all of BUF, ACC, CHK, FLG, PLEN, TXLEN, VALID, T. -/
def State.scramble (s : State) : State :=
  { s with
    buf := Memory.unspecified pcodec s.draws
    acc := Config.freeAcc s.draws
    chk := Config.freeChk s.draws
    flg := Config.freeFlg s.draws
    plen := Config.freePlen s.draws
    txlen := Config.freeTxlen s.draws
    valid := Config.freeValid s.draws
    t := Config.freeT s.draws
    draws := s.draws + 1 }

/-- `raise Fault(cause, info)` (R188). Only a `BusyFault` touches more than the fault state (R186). -/
def raiseFault (cause : FaultCause) (info : Word) (s : State) : State :=
  match cause with
  | .busyFault => s.scramble.enterFault .busyFault info
  | .illegalCommand => s.enterFault .illegalCommand info
  | .capacityFault => s.enterFault .capacityFault info
  | .lengthFault => s.enterFault .lengthFault info
  | .bufferRange => s.enterFault .bufferRange info

/-- `Reset` (R210), the only return from a fault (R190): registers and flags as in R39, every byte of BUF unspecified. The
host goes on with what it has to do (log entry 14: DEDUCED). -/
def resetStep (s : State) : State :=
  { State.reset with
    buf := Memory.unspecified pcodec s.draws
    host := s.host
    latencies := s.latencies
    draws := s.draws + 1 }

/-! ## The host's side of a step -/

/-- The host step gives back `r`, or nothing. -/
def State.answer (r : Option Reply) (s : State) : State := { s with reply := r }

/-- A read gives back an unspecified byte (S3). -/
def State.answerUnspecifiedByte (s : State) : State :=
  { s with reply := some (.byte (Config.freeReplyByte s.draws)), draws := s.draws + 1 }

/-- A read gives back an unspecified word (S3). -/
def State.answerUnspecifiedWord (s : State) : State :=
  { s with reply := some (.word (Config.freeReplyWord s.draws)), draws := s.draws + 1 }

/-- The latency of the command now issued: the next one given; where none is given, a free value (D13). -/
def State.nextLatency (s : State) : Nat :=
  match s.latencies with
  | [] => Config.latency s.draws
  | k :: _ => k

/-- A legal command is accepted (R54): CMDR holds it and BUSY is set. Nothing else of the spec's state changes. -/
def State.accept (w : Word) (s : State) : State :=
  { s with
    cmdr := w
    busy := true
    delay := s.nextLatency
    latencies := s.latencies.tail
    draws := s.draws + 1 }

/-- The end of a command (R96): `STATUS.BUSY <- 0`. -/
def State.finish (s : State) : State := { s with busy := false, delay := 0 }

/-- The host has this left to do. -/
def State.withHost (rest : List HostItem) (s : State) : State := { s with host := rest }

/-- An accepted `BufWrite` (R52): one byte of BUF. -/
def State.storeByte (a : Nat) (b : Byte) (s : State) : State := { s with buf := Memory.write s.buf a b }

/-- A turn passes in which the in-flight command does not complete (R221). -/
def State.passTurn (s : State) : State := { s with delay := s.delay - 1 }

/-- The effect of a command whose operands have passed their check; where they do not, the command's own fault with its word
in FINFO (R54, R183, R184). The host's issue step makes the same check first, so that here it matters only in states that
no run reaches (log entry 6). -/
def checked (i : Instr) (s : State) (effect : State) : Host.Outcome State Fault Refusal :=
  match operandFault pcodec i with
  | some cause => .next (raiseFault cause (encode i) s)
  | none => .next effect

end Sys2Proof.Machine
end

