-- ==== Sys2Proof/Machine/Checksum.lean ====
section
/-! DEFINITION. The checksum accumulator's commands (spec/40_checksum.md R119 to R122): what `Complete` applies (R96). -/

namespace Sys2Proof.Machine

/-- `CKCLR` (R119). -/
def execCkclr (s : State) : Host.Outcome State Fault Refusal :=
  .next { s with buf := Memory.write4 s.buf pcodec.ckOff 0#32 }

/-- `CKSUM` (R120). -/
def execCksum (s : State) : Host.Outcome State Fault Refusal :=
  .next { s with acc := bufCrc pcodec s.buf }

/-- `CKPUT` (R121). -/
def execCkput (s : State) : Host.Outcome State Fault Refusal :=
  .next { s with buf := Memory.write4 s.buf pcodec.ckOff s.acc }

/-- `CKGET` (R122). -/
def execCkget (s : State) : Host.Outcome State Fault Refusal :=
  .next { s with chk := Memory.read4 s.buf pcodec.ckOff }

end Sys2Proof.Machine
end

