-- ==== Sys2Proof/Machine/Codec.lean ====
section
/-! DEFINITION. The packet codec's commands (spec/41_codec.md R142 to R148): what `Complete` applies (R96). The four packet
operations take the configuration, so that a law can be stated for every checksum function (R110, D1). -/

namespace Sys2Proof.Machine

/-- The buffer `ENCODE n, F` checksums: zero checksum field, flags byte, the host's payload, filler (R142). -/
def framedBuffer (P : Config) (n : Nat) (isFin : Bool) (m : Memory) : Memory :=
  Memory.fillFrom P (Memory.write (Memory.write4 m P.ckOff 0#32) P.flagOff (finFlags P isFin)) (P.payOff + n)

/-- The effect of `ENCODE n, F` (R142), its steps in the document's order. TXLEN for `BUF_SIZE = 1024`: log entry 19. -/
def encodePacket (P : Config) (n : Nat) (isFin : Bool) (s : State) : State :=
  let framed := framedBuffer P n isFin s.buf
  let sum := bufCrc P framed
  { s with
    buf := Memory.write4 framed P.ckOff sum
    acc := sum
    plen := lengthBits n
    txlen := lengthBits P.bufSize }

/-- The effect of `DECODE length` (R144). -/
def decodePacket (P : Config) (length : Nat) (s : State) : State :=
  { s with
    chk := Memory.read4 s.buf P.ckOff
    flg := Memory.read s.buf P.flagOff
    plen := payloadLength P length }

/-- The effect of `VERIFY` (R145). -/
def verifyPacket (P : Config) (s : State) : State :=
  let stored := Memory.read4 s.buf P.ckOff
  let computed := bufCrc P s.buf
  { s with chk := stored, acc := computed, valid := checksumMatches computed stored }

/-- The effect of `MKACK P` (R148). -/
def makeAck (P : Config) (positive : Bool) (s : State) : State :=
  { s with
    buf := Memory.write (Memory.write4 s.buf P.ckOff 0#32) P.flagOff (ackFlags P positive)
    plen := lengthBits 0
    txlen := lengthBits P.ackLen }

/-- `ENCODE n, F` (R142, R183). -/
def execEncode (n : Nat) (isFin : Bool) (s : State) : Host.Outcome State Fault Refusal :=
  checked (.encode n isFin) s (encodePacket pcodec n isFin s)

/-- `DECODE length` (R144, R184). -/
def execDecode (length : Nat) (s : State) : Host.Outcome State Fault Refusal :=
  checked (.decode length) s (decodePacket pcodec length s)

/-- `VERIFY` (R145). -/
def execVerify (s : State) : Host.Outcome State Fault Refusal :=
  .next (verifyPacket pcodec s)

/-- `ISSET.ACK f` (R146). -/
def execIssetAck (f : Byte) (s : State) : Host.Outcome State Fault Refusal :=
  .next { s with t := isSet f pcodec.ackMask }

/-- `ISSET.FIN f` (R147). -/
def execIssetFin (f : Byte) (s : State) : Host.Outcome State Fault Refusal :=
  .next { s with t := isSet f pcodec.finMask }

/-- `MKACK P` (R148). -/
def execMkack (positive : Bool) (s : State) : Host.Outcome State Fault Refusal :=
  .next (makeAck pcodec positive s)

end Sys2Proof.Machine
end

