-- ==== Sys2Proof/Machine/Dispatch.lean ====
section
/-! DEFINITION. One arm per command: the meaning `Complete` applies (spec/30_encoding.md R96). -/

namespace Sys2Proof.Machine

def exec (i : Instr) (s : State) : Host.Outcome State Fault Refusal :=
  match i with
  | .ckclr => Sys2Proof.Machine.execCkclr s
  | .cksum => Sys2Proof.Machine.execCksum s
  | .ckput => Sys2Proof.Machine.execCkput s
  | .ckget => Sys2Proof.Machine.execCkget s
  | .encode n isFin => Sys2Proof.Machine.execEncode n isFin s
  | .decode length => Sys2Proof.Machine.execDecode length s
  | .verify => Sys2Proof.Machine.execVerify s
  | .issetAck f => Sys2Proof.Machine.execIssetAck f s
  | .issetFin f => Sys2Proof.Machine.execIssetFin f s
  | .mkack positive => Sys2Proof.Machine.execMkack positive s

end Sys2Proof.Machine
end

