-- ==== Sys2Proof/Machine/HostSteps.lean ====
section
/-! DEFINITION. The host's steps (spec/20_memory.md R51 to R54, R70; spec/70_reset_and_hazards.md R210) and host scripts
(spec/30_encoding.md R94). Every host step has a next state in every phase. -/

namespace Sys2Proof.Machine

/-- What the common prologue of a host step answers (R70). -/
inductive Gate where
  /-- Phase IDLE, or a read of STATUS: the access proceeds. -/
  | opened
  /-- Phase FAULTED: reads give held values, writes are discarded. -/
  | frozen
  /-- Phase BUSY and no read of STATUS: `BusyFault`. -/
  | busy
  deriving DecidableEq, Repr

/-- `Gate(is_status_read)` (R70). -/
def gate (isStatusRead : Bool) (s : State) : Gate :=
  match s.phase with
  | .faulted => .frozen
  | .busy => if isStatusRead then .opened else .busy
  | .idle => .opened

/-- The value of register `r` of the REG space (R34). -/
def regValue (r : RegNum) (s : State) : Word :=
  match r.toNat with
  | 0 => s.cmdr
  | 1 => statusWord s
  | 2 => s.acc
  | 3 => s.chk
  | 4 => s.flg.setWidth 32
  | 5 => s.plen.setWidth 32
  | 6 => s.txlen.setWidth 32
  | _ => s.finfo

/-- `BufRead(a)` (R51). -/
def bufRead (a : BufAddr) (s : State) : State :=
  let held := s.answer (some (.byte (Memory.read s.buf a.toNat)))
  match gate false s with
  | .frozen => if pcodec.bufSize ≤ a.toNat then s.answerUnspecifiedByte else held
  | .busy => (raiseFault .busyFault s.cmdr s).answerUnspecifiedByte
  | .opened =>
    if pcodec.bufSize ≤ a.toNat then (raiseFault .bufferRange (a.setWidth 32) s).answerUnspecifiedByte else held

/-- `BufWrite(a, b)` (R52). -/
def bufWrite (a : BufAddr) (b : Byte) (s : State) : State :=
  match gate false s with
  | .frozen => s.answer none
  | .busy => (raiseFault .busyFault s.cmdr s).answer none
  | .opened =>
    if pcodec.bufSize ≤ a.toNat then (raiseFault .bufferRange (a.setWidth 32) s).answer none
    else (s.storeByte a.toNat b).answer none

/-- `RegRead(r)` (R53). -/
def regRead (r : RegNum) (s : State) : State :=
  match gate (r == 1#3) s with
  | .busy => (raiseFault .busyFault s.cmdr s).answerUnspecifiedWord
  | .frozen | .opened => s.answer (some (.word (regValue r s)))

/-- The issue of a command word in phase IDLE (R54): an illegal word and a bad operand fault; a legal word is accepted. -/
def issue (w : Word) (s : State) : State :=
  match decode w with
  | .error _ => raiseFault .illegalCommand w s
  | .ok i =>
    match operandFault pcodec i with
    | some cause => raiseFault cause w s
    | none => s.accept w

/-- `RegWrite(r, v)` (R54): a write of register 0 issues a command, a write of another register is ignored (R34). -/
def regWrite (r : RegNum) (v : Word) (s : State) : State :=
  match gate false s with
  | .frozen => s.answer none
  | .busy => (raiseFault .busyFault s.cmdr s).answer none
  | .opened => if r = 0#3 then (issue v s).answer none else s.answer none

/-- One host step (R8). -/
def hostStep (h : HostStep) (s : State) : State :=
  match h with
  | .reset => resetStep s
  | .regRead r => regRead r s
  | .regWrite r v => regWrite r v s
  | .bufRead a => bufRead a s
  | .bufWrite a b => bufWrite a b s

/-- `WAIT` (R94; log entry 11: DEDUCED): a read of STATUS; the line is done when the value read has `BUSY = 0`. -/
def waitStep (rest : List HostItem) (s : State) : State :=
  let polled := regRead 1#3 s
  if (statusWord s).getLsbD 0 then polled else polled.withHost rest

/-- The host's turn: its next line. A host with nothing left to do lets the turn pass. -/
def hostMove (s : State) : State :=
  match s.host with
  | [] => s.passTurn
  | .wait :: rest => waitStep rest s.passTurn
  | .act h :: rest => hostStep h (s.passTurn.withHost rest)

/-! ## Script lines (R94) -/

/-- A command in a script: `RegWrite(0, Encode(command))`. -/
def scriptCommand (i : Instr) : HostItem := .act (.regWrite 0#3 (encode i))

/-- `BWS a, b0 b1 …`: one `BufWrite` per byte, at ascending addresses. -/
def scriptBytes (a : Nat) : List Byte → List HostItem
  | [] => []
  | b :: bs => .act (.bufWrite (BitVec.ofNat 10 a) b) :: scriptBytes (a + 1) bs

end Sys2Proof.Machine
end

