-- ==== Sys2Proof/Machine/Engine.lean ====
section
/-! DEFINITION. The engine's one step (spec/30_encoding.md R96), whose turn it is (R221), and a state whose next step runs a
given command word. -/

namespace Sys2Proof.Machine

/-- What `Complete` adds to a meaning (R96): BUSY is cleared. -/
def finishOutcome : Host.Outcome State Fault Refusal → Host.Outcome State Fault Refusal
  | .next s => .next s.finish
  | .fault r => .fault r
  | .refused r => .refused r

/-- `Complete` (R96): decode CMDR, apply the command's rule, clear BUSY. -/
def complete (s : State) : Host.Outcome State Fault Refusal :=
  match decode s.cmdr with
  | .ok i => finishOutcome (exec i s)
  | .error _ => .fault .undecodableInFlight

/-- It is the engine's turn: a command is in flight (R29) and its latency has passed (R221). -/
def engineTurn (s : State) : Bool := s.phase == .busy && s.delay == 0

/-- The state with the command word `w` in flight and due: what the issue of `w` and its latency come to. -/
def State.inFlight (w : Word) (s : State) : State :=
  { s with cmdr := w, busy := true, fault := false, cause := 0#3, finfo := 0#32, delay := 0 }

end Sys2Proof.Machine
end

