-- ==== Sys2Proof/Machine/Step.lean ====
section
/-! DEFINITION. One step of the whole machine: the engine's `Complete` when it is due, else the host's next line
(spec/00_scope.md R8). -/

namespace Sys2Proof.Machine

/-- One step. With nothing in flight and a host that has nothing left to do, the state stays as it is (R222; log entry 9:
DEDUCED). -/
def step (s : State) : Host.Outcome State Fault Refusal :=
  if engineTurn s then complete s else .next (hostMove s)

/-- `s` with the command word in CMDR, in flight and due, so that the next step is its `Complete` (R96; log entry 7: DESIGN
CHOICE). -/
def State.withFetchWord (s : State) (nbits w : Nat) : State :=
  s.inFlight (BitVec.ofNat 32 (w % 2 ^ nbits))

end Sys2Proof.Machine
end

