-- ==== Sys2Proof/Safety.lean ====
section
/-! DEFINITION. What a safe run is, in the terms the statements use: the invariant of every reachable state and the good end of a
run (spec/10_state.md R20, R25 to R33; spec/60_exceptions.md R181; spec/70_reset_and_hazards.md R222). -/

namespace Sys2Proof.Machine

/-- A word that `RegWrite(0, w)` accepts in phase IDLE (R54): it decodes, and its operands pass their check. -/
def LegalWord (w : Word) : Prop := ∃ i, decode w = .ok i ∧ operandFault pcodec i = none

/-- CAUSE and FINFO say what R181's table says of a fault that was taken. -/
def FaultRecorded (s : State) : Prop :=
  match s.cause.toNat with
  | 1 => ∃ e, decode s.finfo = .error e
  | 2 => ∃ n isFin, decode s.finfo = .ok (.encode n isFin) ∧ 995 < n
  | 3 => ∃ length, decode s.finfo = .ok (.decode length) ∧ (length < 5 ∨ 1000 < length)
  | 4 => 1000 ≤ s.finfo.toNat ∧ s.finfo.toNat ≤ 1023
  | 5 => s.finfo = s.cmdr
  | _ => False

/-- What holds of every state a run from reset reaches. -/
structure Invariant (s : State) : Prop where
  /-- The memory is in its canonical form, inside BUF (R21). -/
  memory : Memory.wf s.buf
  /-- `FAULT = 1` implies `BUSY = 0` (R20). -/
  phasesExclusive : s.fault = true → s.busy = false
  /-- CAUSE and FINFO are 0 while no fault is taken (R28, R181). -/
  noFault : s.fault = false → s.cause = 0#3 ∧ s.finfo = 0#32
  /-- A fault taken is one of the five, with its FINFO (R181). -/
  faultRecorded : s.fault = true → FaultRecorded s
  /-- Only legal words are in CMDR while BUSY (R27, R96). -/
  inFlightLegal : s.busy = true → LegalWord s.cmdr
  /-- CMDR is 0 from reset, or the last accepted word (R27). -/
  lastAccepted : s.cmdr = 0#32 ∨ LegalWord s.cmdr
  /-- A latency runs only while a command is in flight. -/
  delayOnlyBusy : s.busy = false → s.delay = 0
  /-- PLEN is 0 to 995 (R25), but after a `BusyFault` (R186). -/
  plenRange : s.cause ≠ 5#3 → s.plen.toNat ≤ 995
  /-- TXLEN is 0 from reset, 1000 from ENCODE or 5 from MKACK (R26), but after a `BusyFault` (R186). -/
  txlenValues : s.cause ≠ 5#3 → s.txlen = 0#10 ∨ s.txlen = 5#10 ∨ s.txlen = 1000#10

/-- The end of a run (R222): the host has performed its last step and `STATUS.BUSY = 0`. -/
def State.ended (s : State) : Bool := s.host.isEmpty && !s.busy

/-- The end state is good when `STATUS.FAULT = 0` (R222). -/
def State.goodEnd (s : State) : Bool := s.ended && !s.fault

end Sys2Proof.Machine
end

