-- ==== Sys2Proof/Certificates/Slice0/Obligations.lean ====
section
/-! DEFINITION. The statements for the provers. Each docstring names the rule of spec/ it formalises. The vocabulary comes
first (namespace Says): bytes of BUF, the spec's part of a state, the footprint table R68, what issuing a word does. -/

namespace Sys2Proof.Says

open Sys2Proof.Machine

/-! ## Vocabulary -/

/-- `BUF[a]` of a state. -/
abbrev byte (s : State) (a : Nat) : Byte := Memory.read s.buf a

/-- Every piece of the spec's state (R20) is the same in `t` as in `s`; the model's own fields may differ. -/
structure SameSpecState (s t : State) : Prop where
  bytes : ∀ a, byte t a = byte s a
  acc : t.acc = s.acc
  chk : t.chk = s.chk
  flg : t.flg = s.flg
  plen : t.plen = s.plen
  txlen : t.txlen = s.txlen
  finfo : t.finfo = s.finfo
  cmdr : t.cmdr = s.cmdr
  busy : t.busy = s.busy
  fault : t.fault = s.fault
  cause : t.cause = s.cause
  valid : t.valid = s.valid
  tFlag : t.t = s.t

/-- Two states whose BUF holds the same 1000 bytes. -/
def SamePacket (s s' : State) : Prop := ∀ a, a < 1000 → byte s a = byte s' a

/-- The precise fault entry of R188 at the host step that raises it: FAULT, CAUSE, FINFO are written, BUSY is 0, and nothing
else of the spec's state changes; a write gives nothing back. -/
def faulted (cause : BitVec 3) (info : Word) (s : State) : State :=
  { s with fault := true, cause := cause, finfo := info, busy := false, delay := 0, reply := none }

/-- Writing `w` to CMD in phase IDLE raises the precise fault `cause` with `w` in FINFO (R54, R181, R188). -/
def RejectedAs (cause : BitVec 3) (w : Word) : Prop :=
  ∀ s, s.phase = .idle → hostStep (.regWrite 0#3 w) s = faulted cause w s

/-- The word is the command's encoding, it is accepted in phase IDLE, and in phase BUSY its issue is a `BusyFault` with the
in-flight word in FINFO (R54, R186). -/
def IssuedBy (i : Instr) (w : Word) : Prop :=
  encode i = w ∧ decode w = .ok i ∧
  (∀ s, s.phase = .idle →
    (hostStep (.regWrite 0#3 w) s).phase = .busy ∧ (hostStep (.regWrite 0#3 w) s).cmdr = w ∧
      SameSpecState { s with cmdr := w, busy := true } (hostStep (.regWrite 0#3 w) s)) ∧
  (∀ s, s.phase = .busy →
    (hostStep (.regWrite 0#3 w) s).phase = .faulted ∧ (hostStep (.regWrite 0#3 w) s).cause = 5#3 ∧
      (hostStep (.regWrite 0#3 w) s).finfo = s.cmdr)

/-- The four checksum bytes of a state, most significant first, spell the word `v` (R56). -/
def FieldHolds (s : State) (v : Word) : Prop :=
  byte s 0 = v.extractLsb' 24 8 ∧ byte s 1 = v.extractLsb' 16 8 ∧
  byte s 2 = v.extractLsb' 8 8 ∧ byte s 3 = v.extractLsb' 0 8

/-- Four bytes as one word, the first the most significant: `b₀ ++ b₁ ++ b₂ ++ b₃` (R55). -/
def bigEndian (b₀ b₁ b₂ b₃ : Byte) : Word := b₀ ++ b₁ ++ b₂ ++ b₃

/-- `BUF[lo .. lo+n-1]` of a state. -/
def bytesFrom (s : State) (lo n : Nat) : List Byte := (List.range n).map fun k => byte s (lo + k)

/-! The footprint table R68, one function per column. -/

/-- "Reads BUF". -/
def readsByte : Instr → Nat → Bool
  | .ckclr, _ => false
  | .cksum, a => decide (4 ≤ a ∧ a ≤ 999)
  | .ckput, _ => false
  | .ckget, a => decide (a ≤ 3)
  | .encode n _, a => decide (5 ≤ a ∧ a < 5 + n)
  | .decode _, a => decide (a ≤ 4)
  | .verify, a => decide (a ≤ 999)
  | .issetAck _, _ => false
  | .issetFin _, _ => false
  | .mkack _, _ => false

/-- "Writes BUF". -/
def writesByte : Instr → Nat → Bool
  | .ckclr, a => decide (a ≤ 3)
  | .cksum, _ => false
  | .ckput, a => decide (a ≤ 3)
  | .ckget, _ => false
  | .encode n _, a => decide (a ≤ 4 ∨ (5 + n ≤ a ∧ a ≤ 999))
  | .decode _, _ => false
  | .verify, _ => false
  | .issetAck _, _ => false
  | .issetFin _, _ => false
  | .mkack _, a => decide (a ≤ 4)

/-- "Reads regs": ACC is read by CKPUT alone, and no other register is read. -/
def readsAcc : Instr → Bool
  | .ckput => true
  | .ckclr | .cksum | .ckget | .encode _ _ | .decode _ | .verify | .issetAck _ | .issetFin _ | .mkack _ => false

/-- "Writes regs and flags": ACC. -/
def writesAcc : Instr → Bool
  | .cksum | .encode _ _ | .verify => true
  | .ckclr | .ckput | .ckget | .decode _ | .issetAck _ | .issetFin _ | .mkack _ => false

/-- "Writes regs and flags": CHK. -/
def writesChk : Instr → Bool
  | .ckget | .decode _ | .verify => true
  | .ckclr | .cksum | .ckput | .encode _ _ | .issetAck _ | .issetFin _ | .mkack _ => false

/-- "Writes regs and flags": FLG. -/
def writesFlg : Instr → Bool
  | .decode _ => true
  | .ckclr | .cksum | .ckput | .ckget | .encode _ _ | .verify | .issetAck _ | .issetFin _ | .mkack _ => false

/-- "Writes regs and flags": PLEN. -/
def writesPlen : Instr → Bool
  | .encode _ _ | .decode _ | .mkack _ => true
  | .ckclr | .cksum | .ckput | .ckget | .verify | .issetAck _ | .issetFin _ => false

/-- "Writes regs and flags": TXLEN. -/
def writesTxlen : Instr → Bool
  | .encode _ _ | .mkack _ => true
  | .ckclr | .cksum | .ckput | .ckget | .decode _ | .verify | .issetAck _ | .issetFin _ => false

/-- "Writes regs and flags": VALID. -/
def writesValid : Instr → Bool
  | .verify => true
  | .ckclr | .cksum | .ckput | .ckget | .encode _ _ | .decode _ | .issetAck _ | .issetFin _ | .mkack _ => false

/-- "Writes regs and flags": T. -/
def writesT : Instr → Bool
  | .issetAck _ | .issetFin _ => true
  | .ckclr | .cksum | .ckput | .ckget | .encode _ _ | .decode _ | .verify | .mkack _ => false

/-- The command that the engine completes in this step, if it is the engine's turn. -/
def Completes (s : State) (i : Instr) : Prop := engineTurn s = true ∧ decode s.cmdr = .ok i

/-- The host's next line is `Reset`, and it is the host's turn. -/
def Resets (s : State) : Prop := engineTurn s = false ∧ ∃ rest, s.host = .act .reset :: rest

/-- The step takes a `BusyFault`: a command is in flight and the host does something else than read STATUS or reset. -/
def BusyFaults (s t : State) : Prop := s.phase = .busy ∧ t.phase = .faulted ∧ t.cause = 5#3

/-- What a host may do while it waits: read STATUS, or `WAIT` (R221). -/
def Polls (x : HostItem) : Prop := x = .wait ∨ x = .act (.regRead 1#3)

end Sys2Proof.Says

open Sys2Proof Sys2Proof.Machine Sys2Proof.Says

/-! ## Encoding -/

/-- Words written out bit by bit from the formats R82 to R86 and the opcodes R88, and what they stand for. -/
def Obligations.WrittenOutWordsDecode : Prop :=
  decode 0b000000_0000000000_00000000_0000_0001#32 = .ok .ckclr ∧
  decode 0b000000_0000000000_00000000_0000_0010#32 = .ok .cksum ∧
  decode 0b000000_0000000000_00000000_0000_0011#32 = .ok .ckput ∧
  decode 0b000000_0000000000_00000000_0000_0100#32 = .ok .ckget ∧
  decode 0b000000_0000000101_0000000_1_0000_1000#32 = .ok (.encode 5 true) ∧
  decode 0b000000_1111101000_00000000_0000_1001#32 = .ok (.decode 1000) ∧
  decode 0b000000_0000000000_00000000_0000_1010#32 = .ok .verify ∧
  decode 0b000000_00_00000001_11111110_0000_1011#32 = .ok (.issetAck 0xFE#8) ∧
  decode 0b000000_00_00000010_11111101_0000_1011#32 = .ok (.issetFin 0xFD#8) ∧
  decode 0b000000_0000000000_0000000_1_0000_1100#32 = .ok (.mkack true)

/-- R91: the decoder gives a command exactly when a row of R88 covers the word, with that row's operands; decoding the
encoding of a well-formed command gives it back; encoding a decoded word gives the word back, what was decoded is
well-formed, and the word is `(L << 16) | (A << 8) | OP`. The spec marks the two round trips as derived. -/
def Obligations.DecodeAndEncodeAgree : Prop :=
  (∀ w i, decode w = .ok i ↔ ∃ r ∈ rows, w &&& r.mask = r.pattern ∧ i = r.read w) ∧
  (∀ i, i.wellFormed = true → decode (encode i) = .ok i) ∧
  (∀ w i, decode w = .ok i → encode i = w ∧ i.wellFormed = true ∧
    w = ((lField w).setWidth 32 <<< 16) ||| ((aField w).setWidth 32 <<< 8) ||| (opField w).setWidth 32)

/-- R88 (marked derived there): no two rows of the opcode map match the same word. -/
def Obligations.NoTwoRowsCoverOneWord : Prop :=
  ∀ r ∈ rows, ∀ r' ∈ rows, ∀ w, w &&& r.mask = r.pattern → w &&& r'.mask = r'.pattern → r.mnemonic = r'.mnemonic

/-- R89 and R182: the illegal words are exactly the listed classes, and issuing one in phase IDLE raises
`IllegalCommand`; `ENCODE` and `DECODE` with an operand out of range are no illegal encodings: they decode, and fault
with their own causes. R182: the word is in FINFO, not in CMDR, and nothing else changes. -/
def Obligations.IllegalWordsAreTheReservedOnes : Prop :=
  (∀ w, (∃ e, decode w = .error e) ↔
    (opField w ∈ [0x0#4, 0x5#4, 0x6#4, 0x7#4, 0xD#4, 0xE#4, 0xF#4] ∨
      z0Field w ≠ 0#4 ∨ z1Field w ≠ 0#6 ∨
      (opField w ∈ [0x1#4, 0x2#4, 0x3#4, 0x4#4, 0xA#4] ∧ (aField w ≠ 0#8 ∨ lField w ≠ 0#10)) ∨
      (opField w ∈ [0x8#4, 0xC#4] ∧ (aField w).extractLsb' 1 7 ≠ 0#7) ∨
      (opField w = 0xC#4 ∧ lField w ≠ 0#10) ∨
      (opField w = 0x9#4 ∧ aField w ≠ 0#8) ∨
      (opField w = 0xB#4 ∧ ((lField w).extractLsb' 8 2 ≠ 0#2 ∨
        ((lField w).extractLsb' 0 8 ≠ 0x01#8 ∧ (lField w).extractLsb' 0 8 ≠ 0x02#8))))) ∧
  (∀ w, (∃ e, decode w = .error e) → RejectedAs 1#3 w) ∧
  (∀ n isFin, 995 < n → n < 1024 → decode (encode (.encode n isFin)) = .ok (.encode n isFin) ∧
    RejectedAs 2#3 (encode (.encode n isFin))) ∧
  (∀ length, length < 5 ∨ 1000 < length → length < 1024 → decode (encode (.decode length)) = .ok (.decode length) ∧
    RejectedAs 3#3 (encode (.decode length)))

/-- R93: what each pseudo-instruction expands to and its word; `ISSET f, m` with another mask does not assemble. -/
def Obligations.PseudoInstructionsExpand : Prop :=
  (Pseudo.ackp.expand = some (.mkack true) ∧ encode (.mkack true) = 0x0000010C#32) ∧
  (Pseudo.ackn.expand = some (.mkack false) ∧ encode (.mkack false) = 0x0000000C#32) ∧
  (∀ f, (Pseudo.isset f 0x01#8).expand = some (.issetAck f) ∧
    encode (.issetAck f) = 0x0001000B#32 ||| (f.setWidth 32 <<< 8)) ∧
  (∀ f, (Pseudo.isset f 0x02#8).expand = some (.issetFin f) ∧
    encode (.issetFin f) = 0x0002000B#32 ||| (f.setWidth 32 <<< 8)) ∧
  (∀ f m, m ≠ 0x01#8 → m ≠ 0x02#8 → (Pseudo.isset f m).expand = none) ∧
  (∀ n, n < 1024 → (Pseudo.encodeFin n).expand = some (.encode n true) ∧
    encode (.encode n true) = 0x00000108#32 ||| (BitVec.ofNat 32 n <<< 16)) ∧
  (∀ n, n < 1024 → (Pseudo.encodeData n).expand = some (.encode n false) ∧
    encode (.encode n false) = 0x00000008#32 ||| (BitVec.ofNat 32 n <<< 16))

/-! ## Bytes of BUF -/

/-- R55 and R56: `MemRead(addr, 4)` is the concatenation of four bytes, the lowest address first; `MemWrite(addr, 4, v)`
puts the four bytes of `v` there in that order and changes no other byte; reading back gives `v` (R56 marks this sentence as
derived); this hardware's checksum field is at offset 0. -/
def Obligations.FourByteAccessIsBigEndian : Prop :=
  (∀ (m : Memory) a, Memory.read4 m a =
      bigEndian (Memory.read m a) (Memory.read m (a + 1)) (Memory.read m (a + 2)) (Memory.read m (a + 3)) ∧
    Memory.read4 m a = ((Memory.read m a).setWidth 32 <<< 24) ||| ((Memory.read m (a + 1)).setWidth 32 <<< 16) |||
      ((Memory.read m (a + 2)).setWidth 32 <<< 8) ||| (Memory.read m (a + 3)).setWidth 32) ∧
  (∀ (m : Memory) a v, Memory.read (Memory.write4 m a v) a = v.extractLsb' 24 8 ∧
    Memory.read (Memory.write4 m a v) (a + 1) = v.extractLsb' 16 8 ∧
    Memory.read (Memory.write4 m a v) (a + 2) = v.extractLsb' 8 8 ∧
    Memory.read (Memory.write4 m a v) (a + 3) = v.extractLsb' 0 8 ∧
    (∀ x, x < a ∨ a + 3 < x → Memory.read (Memory.write4 m a v) x = Memory.read m x) ∧
    Memory.read4 (Memory.write4 m a v) a = v) ∧
  pcodec.ckOff = 0

/-- R65 (2) for bytes, and the mixed-width view of R57: after an accepted `BufWrite(a, b)` a `BufRead(a)` returns `b` and a
`BufRead` of another byte returns what it returned before; the four bytes a host reads at 0..3, assembled big-endian, are
what CKGET puts into CHK. -/
def Obligations.HostReadsTheLastWrite : Prop :=
  (∀ s (a x : BufAddr) b, s.phase = .idle → a.toNat ≤ 999 → x.toNat ≤ 999 →
    (hostStep (.bufRead x) (hostStep (.bufWrite a b) s)).reply =
      if x = a then some (.byte b) else (hostStep (.bufRead x) s).reply) ∧
  (∀ s b₀ b₁ b₂ b₃, s.phase = .idle →
    (hostStep (.bufRead 0#10) s).reply = some (.byte b₀) → (hostStep (.bufRead 1#10) s).reply = some (.byte b₁) →
    (hostStep (.bufRead 2#10) s).reply = some (.byte b₂) → (hostStep (.bufRead 3#10) s).reply = some (.byte b₃) →
    ∃ t, exec .ckget s = .next t ∧ t.chk = bigEndian b₀ b₁ b₂ b₃)

/-! ## The checksum function -/

/-- R112 against the table-driven form every implementation uses: one update is the accumulator shifted by a byte,
exclusive-or the eight iterations of the byte that falls out. -/
def Obligations.CrcUpdateIsTheTableStep : Prop :=
  ∀ (c : Word) (b : Byte),
    crcUpdate c b = (c >>> 8) ^^^ crcUpdate 0#32 (c.extractLsb' 0 8 ^^^ b)

/-- R117 (marked there as general knowledge): for a fixed length `crc32` is affine over GF(2). -/
def Obligations.CrcIsAffine : Prop :=
  ∀ x y z : List Byte, x.length = y.length → y.length = z.length →
    crc32 (List.zipWith (· ^^^ ·) (List.zipWith (· ^^^ ·) x y) z) = crc32 x ^^^ crc32 y ^^^ crc32 z

/-- R116: the checksum of the buffer is `crc32` of four zero bytes and `BUF[4..999]` in ascending order, and it does not
depend on `BUF[0..3]`. -/
def Obligations.BufferChecksumTakesFieldAsZero : Prop :=
  (∀ m : Memory, bufCrc pcodec m =
    crc32 ([0x00#8, 0x00#8, 0x00#8, 0x00#8] ++ (List.range 996).map fun k => Memory.read m (4 + k))) ∧
  (∀ (m : Memory) a b, a < 4 → bufCrc pcodec (Memory.write m a b) = bufCrc pcodec m)

/-- R118 (marked there as general knowledge), for every change of one byte (a change of one bit is one): a change among
`BUF[4..999]` changes the checksum of the buffer; a change among `BUF[0..3]` changes the stored field and not the
checksum; after either, `VERIFY` of a packet that was valid gives `VALID = 0`. -/
def Obligations.OneChangedByteIsAlwaysDetected : Prop :=
  (∀ (m : Memory) a b, 4 ≤ a → a < 1000 → b ≠ Memory.read m a →
    bufCrc pcodec (Memory.write m a b) ≠ bufCrc pcodec m) ∧
  (∀ (m : Memory) a b, a < 4 → b ≠ Memory.read m a →
    bufCrc pcodec (Memory.write m a b) = bufCrc pcodec m ∧ Memory.read4 (Memory.write m a b) 0 ≠ Memory.read4 m 0) ∧
  (∀ s u a b, exec .verify s = .next u → u.valid = true → a < 1000 → b ≠ byte s a →
    ∃ t, exec .verify { s with buf := Memory.write s.buf a b } = .next t ∧ t.valid = false)

/-! ## The checksum accumulator's commands -/

/-- R119. -/
def Obligations.CkclrZeroesTheField : Prop :=
  (∀ s, ∃ t, exec .ckclr s = .next t ∧
    (∀ a, byte t a = if a ≤ 3 then 0x00#8 else byte s a) ∧ t = { s with buf := t.buf }) ∧
  IssuedBy .ckclr 0x00000001#32 ∧
  (∀ w, opField w = 0x1#4 → aField w ≠ 0#8 ∨ lField w ≠ 0#10 → RejectedAs 1#3 w)

/-- R120: ACC becomes the accumulator's value after 1000 updates, the checksum field taken as zero; BUF and everything else
stay. -/
def Obligations.CksumAccumulatesTheBuffer : Prop :=
  (∀ s, exec .cksum s = .next { s with
    acc := crcFinal ((List.range 1000).foldl (fun c i => crcUpdate c (if i < 4 then 0x00#8 else byte s i)) crcInit) }) ∧
  IssuedBy .cksum 0x00000002#32 ∧
  (∀ w, opField w = 0x2#4 → aField w ≠ 0#8 ∨ lField w ≠ 0#10 → RejectedAs 1#3 w)

/-- R121. -/
def Obligations.CkputStoresAccBigEndian : Prop :=
  (∀ s, ∃ t, exec .ckput s = .next t ∧ FieldHolds t s.acc ∧
    (∀ a, 4 ≤ a → byte t a = byte s a) ∧ t = { s with buf := t.buf }) ∧
  IssuedBy .ckput 0x00000003#32 ∧
  (∀ w, opField w = 0x3#4 → aField w ≠ 0#8 ∨ lField w ≠ 0#10 → RejectedAs 1#3 w)

/-- R122. -/
def Obligations.CkgetLoadsTheFieldBigEndian : Prop :=
  (∀ s, exec .ckget s = .next { s with chk := bigEndian (byte s 0) (byte s 1) (byte s 2) (byte s 3) }) ∧
  IssuedBy .ckget 0x00000004#32 ∧
  (∀ w, opField w = 0x4#4 → aField w ≠ 0#8 ∨ lField w ≠ 0#10 → RejectedAs 1#3 w)

/-- R123 (marked derived there): the primitives, composed, leave what `ENCODE` and `VERIFY` leave. (a) With the flags
byte written and the filler zeroed by the host, `CKCLR; CKSUM; CKPUT` leaves BUF and ACC as `ENCODE` does, and `CKCLR`
may be left out. (b) `CKGET; CKSUM` leaves CHK and ACC as `VERIFY` does, and `VALID` would be `ACC == CHK`. (c) `CKSUM;
CKPUT; CKGET; CKSUM` ends with `ACC == CHK`. -/
def Obligations.PrimitivesComposeToEncodeAndVerify : Prop :=
  (∀ s n isFin, n ≤ 995 → byte s 4 = (if isFin then 0x02#8 else 0x00#8) →
    (∀ a, 5 + n ≤ a → a ≤ 999 → byte s a = 0x00#8) →
    ∃ e a₁ a₂ a₃ b₂ b₃, exec (.encode n isFin) s = .next e ∧
      exec .ckclr s = .next a₁ ∧ exec .cksum a₁ = .next a₂ ∧ exec .ckput a₂ = .next a₃ ∧
      exec .cksum s = .next b₂ ∧ exec .ckput b₂ = .next b₃ ∧
      (∀ a, byte a₃ a = byte e a) ∧ a₃.acc = e.acc ∧ (∀ a, byte b₃ a = byte e a) ∧ b₃.acc = e.acc) ∧
  (∀ s, ∃ v a₁ a₂, exec .verify s = .next v ∧ exec .ckget s = .next a₁ ∧ exec .cksum a₁ = .next a₂ ∧
    a₂.chk = v.chk ∧ a₂.acc = v.acc ∧ v.valid = (a₂.acc == a₂.chk) ∧ a₂.valid = s.valid) ∧
  (∀ s, ∃ a₁ a₂ a₃ a₄, exec .cksum s = .next a₁ ∧ exec .ckput a₁ = .next a₂ ∧ exec .ckget a₂ = .next a₃ ∧
    exec .cksum a₃ = .next a₄ ∧ a₄.acc = a₄.chk)

/-! ## The packet codec's commands -/

/-- R142 and R87: the packet `ENCODE n, F` leaves. ACC is `crc32` of the zeroed field, the flags byte, the payload and
the zero filler; the field holds ACC big-endian. -/
def Obligations.EncodeMarshalsThePacket : Prop :=
  (∀ s n isFin, n ≤ 995 → ∃ t, exec (.encode n isFin) s = .next t ∧
    t.acc = crc32 ([0x00#8, 0x00#8, 0x00#8, 0x00#8] ++ [if isFin then 0x02#8 else 0x00#8] ++
      bytesFrom s 5 n ++ List.replicate (995 - n) 0x00#8) ∧
    FieldHolds t t.acc ∧
    byte t 4 = (if isFin then 0x02#8 else 0x00#8) ∧
    (∀ a, 5 ≤ a → a < 5 + n → byte t a = byte s a) ∧
    (∀ a, 5 + n ≤ a → a ≤ 999 → byte t a = 0x00#8) ∧
    (∀ a, 1000 ≤ a → byte t a = byte s a) ∧
    t = { s with buf := t.buf, acc := t.acc, plen := BitVec.ofNat 10 n, txlen := 1000#10 }) ∧
  (∀ n isFin, n ≤ 995 → IssuedBy (.encode n isFin)
    ((BitVec.ofNat 32 n <<< 16) ||| ((BitVec.ofBool isFin).setWidth 32 <<< 8) ||| 0x8#32)) ∧
  (∀ n isFin, 995 < n → n < 1024 → RejectedAs 2#3 (encode (.encode n isFin))) ∧
  (∀ w, opField w = 0x8#4 → (aField w).extractLsb' 1 7 ≠ 0#7 ∨ z0Field w ≠ 0#4 ∨ z1Field w ≠ 0#6 → RejectedAs 1#3 w)

/-- R143; the spec marks (d) and (e) as derived. -/
def Obligations.EncodeCornerCases : Prop :=
  (∀ s isFin, ∃ t, exec (.encode 0 isFin) s = .next t ∧ (∀ a, 5 ≤ a → a ≤ 999 → byte t a = 0x00#8) ∧
    bytesFrom t 0 5 = if isFin then [0x47#8, 0xE1#8, 0xBB#8, 0x20#8, 0x02#8]
      else [0x06#8, 0x0B#8, 0x17#8, 0x80#8, 0x00#8]) ∧
  (∀ s isFin, ∃ t, exec (.encode 995 isFin) s = .next t ∧ ∀ a, 5 ≤ a → byte t a = byte s a) ∧
  (∀ n isFin, 996 ≤ n → n ≤ 1023 → RejectedAs 2#3 (encode (.encode n isFin))) ∧
  (∀ s s' n isFin, n ≤ 995 → (∀ a, 5 ≤ a → a < 5 + n → byte s a = byte s' a) →
    ∃ t t', exec (.encode n isFin) s = .next t ∧ exec (.encode n isFin) s' = .next t' ∧ SamePacket t t' ∧ t.acc = t'.acc) ∧
  (∀ s n isFin, n ≤ 995 → ∃ t u, exec (.encode n isFin) s = .next t ∧ exec (.encode n isFin) t = .next u ∧
    SameSpecState t u)

/-- R144. -/
def Obligations.DecodeUnmarshalsTheHeader : Prop :=
  (∀ s length, 5 ≤ length → length ≤ 1000 → exec (.decode length) s = .next { s with
    chk := bigEndian (byte s 0) (byte s 1) (byte s 2) (byte s 3)
    flg := byte s 4
    plen := BitVec.ofNat 10 (length - 5) }) ∧
  (∀ length, 5 ≤ length → length ≤ 1000 →
    IssuedBy (.decode length) ((BitVec.ofNat 32 length <<< 16) ||| 0x9#32)) ∧
  (∀ length, length < 5 ∨ 1000 < length → length < 1024 → RejectedAs 3#3 (encode (.decode length))) ∧
  (∀ w, opField w = 0x9#4 → aField w ≠ 0#8 ∨ z0Field w ≠ 0#4 ∨ z1Field w ≠ 0#6 → RejectedAs 1#3 w)

/-- R145. -/
def Obligations.VerifyComparesChecksumWithField : Prop :=
  (∀ s, exec .verify s = .next { s with
    chk := bigEndian (byte s 0) (byte s 1) (byte s 2) (byte s 3)
    acc := crc32 ([0x00#8, 0x00#8, 0x00#8, 0x00#8] ++ bytesFrom s 4 996)
    valid := crc32 ([0x00#8, 0x00#8, 0x00#8, 0x00#8] ++ bytesFrom s 4 996) ==
      bigEndian (byte s 0) (byte s 1) (byte s 2) (byte s 3) }) ∧
  (∀ s, ∃ t, exec .verify s = .next t ∧ exec .verify t = .next t) ∧
  IssuedBy .verify 0x0000000A#32 ∧
  (∀ w, opField w = 0xA#4 → aField w ≠ 0#8 ∨ lField w ≠ 0#10 → RejectedAs 1#3 w)

/-- R146 and R147: the two flag tests read only their operand and write only T. -/
def Obligations.IssetTestsOneBit : Prop :=
  (∀ s f, exec (.issetAck f) s = .next { s with t := f.getLsbD 0 }) ∧
  (∀ s f, exec (.issetFin f) s = .next { s with t := f.getLsbD 1 }) ∧
  (∀ f, IssuedBy (.issetAck f) (0x0001000B#32 ||| (f.setWidth 32 <<< 8))) ∧
  (∀ f, IssuedBy (.issetFin f) (0x0002000B#32 ||| (f.setWidth 32 <<< 8))) ∧
  (∀ w, opField w = 0xB#4 → z0Field w ≠ 0#4 ∨ z1Field w ≠ 0#6 ∨ (lField w).extractLsb' 8 2 ≠ 0#2 → RejectedAs 1#3 w)

/-- R148. -/
def Obligations.MkackMarshalsTheAcknowledgment : Prop :=
  (∀ s positive, ∃ t, exec (.mkack positive) s = .next t ∧
    (∀ a, byte t a = if a ≤ 3 then 0x00#8 else if a = 4 then (if positive then 0x01#8 else 0x00#8) else byte s a) ∧
    t = { s with buf := t.buf, plen := 0#10, txlen := 5#10 }) ∧
  (∀ positive, IssuedBy (.mkack positive) (((BitVec.ofBool positive).setWidth 32 <<< 8) ||| 0xC#32)) ∧
  (∀ w, opField w = 0xC#4 →
    (aField w).extractLsb' 1 7 ≠ 0#7 ∨ lField w ≠ 0#10 ∨ z0Field w ≠ 0#4 ∨ z1Field w ≠ 0#6 → RejectedAs 1#3 w)

/-- R141: the flag test, and that it is the bit itself for the two masks. -/
def Obligations.FlagTestIsTheBit : Prop :=
  (∀ f m : Byte, m = 0x01#8 ∨ m = 0x02#8 → (isSet f m = true ↔ f &&& m ≠ 0x00#8)) ∧
  ∀ f : Byte, isSet f 0x01#8 = f.getLsbD 0 ∧ isSet f 0x02#8 = f.getLsbD 1

/-- R68 (marked derived there): the footprint of every command whose operands pass their check. What the table does not
give as written is exactly as it was; what it gives as written depends only on what it gives as read. The whole of the
state that no column names stays, and completion clears BUSY. -/
def Obligations.CommandsKeepTheirFootprint : Prop :=
  (∀ i s, operandFault pcodec i = none → ∃ t, exec i s = .next t ∧
    (∀ a, writesByte i a = false → byte t a = byte s a) ∧
    (writesAcc i = false → t.acc = s.acc) ∧ (writesChk i = false → t.chk = s.chk) ∧
    (writesFlg i = false → t.flg = s.flg) ∧ (writesPlen i = false → t.plen = s.plen) ∧
    (writesTxlen i = false → t.txlen = s.txlen) ∧ (writesValid i = false → t.valid = s.valid) ∧
    (writesT i = false → t.t = s.t) ∧
    t = { s with buf := t.buf, acc := t.acc, chk := t.chk, flg := t.flg, plen := t.plen, txlen := t.txlen,
                 valid := t.valid, t := t.t }) ∧
  (∀ i s s' t t', operandFault pcodec i = none → exec i s = .next t → exec i s' = .next t' →
    (∀ a, readsByte i a = true → byte s a = byte s' a) → (readsAcc i = true → s.acc = s'.acc) →
    (∀ a, writesByte i a = true → byte t a = byte t' a) ∧
    (writesAcc i = true → t.acc = t'.acc) ∧ (writesChk i = true → t.chk = t'.chk) ∧
    (writesFlg i = true → t.flg = t'.flg) ∧ (writesPlen i = true → t.plen = t'.plen) ∧
    (writesTxlen i = true → t.txlen = t'.txlen) ∧ (writesValid i = true → t.valid = t'.valid) ∧
    (writesT i = true → t.t = t'.t)) ∧
  (∀ i s t, Completes s i → step s = .next t → t.busy = false)

/-- R149 (marked derived there): after `ENCODE n, F`, on every machine whose BUF holds the same 1000 bytes, `VERIFY`
gives `VALID = 1` and `DECODE 1000` gives the flags, the checksum and 995. -/
def Obligations.EncodedPacketVerifiesAndDecodes : Prop :=
  ∀ s n isFin, n ≤ 995 → ∃ t, exec (.encode n isFin) s = .next t ∧
    (∀ a, 5 ≤ a → a < 5 + n → byte t a = byte s a) ∧ (∀ a, 5 + n ≤ a → a ≤ 999 → byte t a = 0x00#8) ∧
    ∀ r, SamePacket r t →
      (∃ u, exec .verify r = .next u ∧ u.valid = true) ∧
      (∃ u, exec (.decode 1000) r = .next u ∧ u.flg = (if isFin then 0x02#8 else 0x00#8) ∧
        u.chk = t.acc ∧ u.plen = 995#10)

/-- R149 for every checksum function and all parameters that satisfy R5's constraints (R110: a different variant can be
substituted; R5: "may prove laws for any values that satisfy the stated constraints"). What the checksum covers for
`CK_OFF > 0` is the model's choice (log entry 18). -/
def Obligations.RoundTripHoldsForEveryConfiguration : Prop :=
  ∀ (P : Config) s n isFin, P.Consistent → n ≤ P.maxPayload →
    (verifyPacket P (encodePacket P n isFin s)).valid = true ∧
    (decodePacket P P.bufSize (encodePacket P n isFin s)).flg = (if isFin then P.finMask else 0x00#8) ∧
    (decodePacket P P.bufSize (encodePacket P n isFin s)).chk = (encodePacket P n isFin s).acc ∧
    (decodePacket P P.bufSize (encodePacket P n isFin s)).plen.toNat = P.maxPayload ∧
    (∀ a, P.payOff ≤ a → a < P.payOff + n → byte (encodePacket P n isFin s) a = byte s a) ∧
    (∀ a, P.payOff + n ≤ a → a < P.bufSize → byte (encodePacket P n isFin s) a = P.fill)

/-- R40, R69, R25 and R26: the packet in BUF as views. After `ENCODE` the datagram is the 1000 bytes of BUF, its field
is ACC and its payload what the host wrote; after `MKACK` it is the five header bytes, with no payload; after `DECODE`
the payload is `BUF[5 .. length-1]`. -/
def Obligations.WireViewOfThePacket : Prop :=
  (∀ s n isFin, n ≤ 995 → ∃ t, exec (.encode n isFin) s = .next t ∧ t.datagram = bytesFrom t 0 1000 ∧
    t.checksumField = t.acc ∧ t.flagsByte = (if isFin then 0x02#8 else 0x00#8) ∧ t.payload = bytesFrom s 5 n) ∧
  (∀ s positive, ∃ t, exec (.mkack positive) s = .next t ∧ t.checksumField = 0#32 ∧ t.payload = [] ∧
    t.datagram = [0x00#8, 0x00#8, 0x00#8, 0x00#8, if positive then 0x01#8 else 0x00#8]) ∧
  (∀ s length, 5 ≤ length → length ≤ 1000 → ∃ t, exec (.decode length) s = .next t ∧
    t.checksumField = t.chk ∧ t.flagsByte = t.flg ∧ t.payload = bytesFrom s 5 (length - 5))

/-- R150 (marked derived there) and R152: an acknowledgment carries no checksum, so `VERIFY` of one gives `VALID = 1`
only if the checksum of the buffer happens to be 0; the sender's way, `DECODE 5` and then `ISSET.ACK` of the FLG it
reads, gives back the bit `MKACK` was given. -/
def Obligations.AcknowledgmentIsReadBackNotVerified : Prop :=
  ∀ s positive, ∃ t, exec (.mkack positive) s = .next t ∧
    (∃ v, exec .verify t = .next v ∧ v.chk = 0#32 ∧ v.valid = (bufCrc pcodec t.buf == 0#32)) ∧
    ∀ r, SamePacket r t → ∃ d u, exec (.decode 5) r = .next d ∧ d.plen = 0#10 ∧
      exec (.issetAck d.flg) d = .next u ∧ u.t = positive

/-- R151 (marked derived there): `VERIFY` and `DECODE 1000` are functions of BUF alone and do not write it, so running
them again on the same 1000 bytes gives the same VALID, CHK, FLG and PLEN. -/
def Obligations.VerifyAndDecodeAreRepeatable : Prop :=
  ∀ s r, SamePacket s r → ∃ v d v' d', exec .verify s = .next v ∧ exec (.decode 1000) v = .next d ∧
    exec .verify r = .next v' ∧ exec (.decode 1000) v' = .next d' ∧
    d.valid = d'.valid ∧ d.chk = d'.chk ∧ d.flg = d'.flg ∧ d.plen = d'.plen ∧
    (∀ a, byte d a = byte s a) ∧
    exec .verify d = .next d ∧ exec (.decode 1000) d = .next d

/-! ## Host steps and faults -/

/-- R28: the fields of the STATUS word. -/
def Obligations.StatusWordHoldsItsFields : Prop :=
  ∀ s, (statusWord s).getLsbD 0 = s.busy ∧ (statusWord s).getLsbD 1 = s.fault ∧ (statusWord s).getLsbD 2 = s.valid ∧
    (statusWord s).getLsbD 3 = s.t ∧ (statusWord s).extractLsb' 4 3 = s.cause ∧ (statusWord s).extractLsb' 7 25 = 0#25

/-- R34: what a read of each register returns in phase IDLE, that a write of CMD issues a command (R54) and a write of
another register changes nothing, and that every register reads 0 after reset. -/
def Obligations.RegisterSpaceReadsAndIgnoresWrites : Prop :=
  (∀ s, s.phase = .idle →
    hostStep (.regRead 0#3) s = { s with reply := some (.word s.cmdr) } ∧
    hostStep (.regRead 1#3) s = { s with reply := some (.word (statusWord s)) } ∧
    hostStep (.regRead 2#3) s = { s with reply := some (.word s.acc) } ∧
    hostStep (.regRead 3#3) s = { s with reply := some (.word s.chk) } ∧
    hostStep (.regRead 4#3) s = { s with reply := some (.word (s.flg.setWidth 32)) } ∧
    hostStep (.regRead 5#3) s = { s with reply := some (.word (s.plen.setWidth 32)) } ∧
    hostStep (.regRead 6#3) s = { s with reply := some (.word (s.txlen.setWidth 32)) } ∧
    hostStep (.regRead 7#3) s = { s with reply := some (.word s.finfo) }) ∧
  (∀ s v, s.phase = .idle → hostStep (.regWrite 0#3 v) s = { issue v s with reply := none }) ∧
  (∀ s r v, s.phase = .idle → r ≠ 0#3 → hostStep (.regWrite r v) s = { s with reply := none }) ∧
  (∀ s r, (hostStep (.regRead r) (hostStep .reset s)).reply = some (.word 0#32) ∧
    (hostStep (.regRead r) State.reset).reply = some (.word 0#32))

/-- R51, R52 and R185: `BufRead` and `BufWrite` in every phase, at every address. -/
def Obligations.BufferAccessByPhase : Prop :=
  (∀ s a, s.phase = .idle → a.toNat ≤ 999 →
    hostStep (.bufRead a) s = { s with reply := some (.byte (byte s a.toNat)) }) ∧
  (∀ s a, s.phase = .idle → 999 < a.toNat →
    SameSpecState (faulted 4#3 (a.setWidth 32) s) (hostStep (.bufRead a) s) ∧
    ∃ b, (hostStep (.bufRead a) s).reply = some (.byte b)) ∧
  (∀ s a, s.phase = .faulted → SameSpecState s (hostStep (.bufRead a) s) ∧
    (∃ b, (hostStep (.bufRead a) s).reply = some (.byte b)) ∧
    (a.toNat ≤ 999 → (hostStep (.bufRead a) s).reply = some (.byte (byte s a.toNat)))) ∧
  (∀ s a b, s.phase = .idle → a.toNat ≤ 999 → ∃ t, hostStep (.bufWrite a b) s = t ∧
    (∀ x, byte t x = if x = a.toNat then b else byte s x) ∧ t = { s with buf := t.buf, reply := none }) ∧
  (∀ s a b, s.phase = .idle → 999 < a.toNat → hostStep (.bufWrite a b) s = faulted 4#3 (a.setWidth 32) s) ∧
  (∀ s a b, s.phase = .faulted → hostStep (.bufWrite a b) s = { s with reply := none }) ∧
  (∀ s a b, s.phase = .busy →
    (∃ v, (hostStep (.bufRead a) s).reply = some (.byte v)) ∧
    (hostStep (.bufRead a) s).phase = .faulted ∧ (hostStep (.bufRead a) s).cause = 5#3 ∧
    (hostStep (.bufRead a) s).finfo = s.cmdr ∧ (hostStep (.bufWrite a b) s).phase = .faulted ∧
    (hostStep (.bufWrite a b) s).cause = 5#3 ∧ (hostStep (.bufWrite a b) s).finfo = s.cmdr)

/-- R53: a read of STATUS never faults and never changes state, in any phase; another `RegRead` in phase BUSY raises
`BusyFault`; in phase FAULTED every `RegRead` returns the held value. -/
def Obligations.StatusMayBePolledInAnyPhase : Prop :=
  (∀ s, hostStep (.regRead 1#3) s = { s with reply := some (.word (statusWord s)) }) ∧
  (∀ s r, s.phase = .idle ∨ s.phase = .faulted →
    hostStep (.regRead r) s = { s with reply := some (.word (regValue r s)) }) ∧
  (∀ s r, s.phase = .busy → r ≠ 1#3 → (hostStep (.regRead r) s).phase = .faulted ∧
    (hostStep (.regRead r) s).cause = 5#3 ∧ (hostStep (.regRead r) s).finfo = s.cmdr ∧
    ∃ v, (hostStep (.regRead r) s).reply = some (.word v))

/-- R54 and the command part of R187: `RegWrite` in every phase; a word written to CMD in phase IDLE is illegal, out of
range or accepted, in that order of priority, and an accepted one changes CMDR and BUSY and nothing else. -/
def Obligations.CommandIssueByPhase : Prop :=
  (∀ s r v, s.phase = .faulted → hostStep (.regWrite r v) s = { s with reply := none }) ∧
  (∀ s r v, s.phase = .busy → (hostStep (.regWrite r v) s).phase = .faulted ∧ (hostStep (.regWrite r v) s).cause = 5#3 ∧
    (hostStep (.regWrite r v) s).finfo = s.cmdr) ∧
  (∀ s r v, s.phase = .idle → r ≠ 0#3 → hostStep (.regWrite r v) s = { s with reply := none }) ∧
  (∀ w, (∀ r ∈ rows, w &&& r.mask ≠ r.pattern) → RejectedAs 1#3 w) ∧
  (∀ w n isFin, decode w = .ok (.encode n isFin) → 995 < n → RejectedAs 2#3 w) ∧
  (∀ w length, decode w = .ok (.decode length) → length < 5 ∨ 1000 < length → RejectedAs 3#3 w) ∧
  (∀ w i s, decode w = .ok i → (∀ n isFin, i = .encode n isFin → n ≤ 995) →
    (∀ length, i = .decode length → 5 ≤ length ∧ length ≤ 1000) → s.phase = .idle →
    (hostStep (.regWrite 0#3 w) s).phase = .busy ∧
    SameSpecState { s with cmdr := w, busy := true } (hostStep (.regWrite 0#3 w) s))

/-- R181: a host step that takes a fault takes one of the five, under that cause's condition and with that cause's FINFO. -/
def Obligations.EveryFaultIsOneOfTheFive : Prop :=
  ∀ s h, s.fault = false → (hostStep h s).fault = true →
    (∃ w, h = .regWrite 0#3 w ∧ s.phase = .idle ∧ (∃ e, decode w = .error e) ∧
      (hostStep h s).cause = 1#3 ∧ (hostStep h s).finfo = w) ∨
    (∃ w n isFin, h = .regWrite 0#3 w ∧ s.phase = .idle ∧ decode w = .ok (.encode n isFin) ∧ 995 < n ∧
      (hostStep h s).cause = 2#3 ∧ (hostStep h s).finfo = w) ∨
    (∃ w length, h = .regWrite 0#3 w ∧ s.phase = .idle ∧ decode w = .ok (.decode length) ∧ (length < 5 ∨ 1000 < length) ∧
      (hostStep h s).cause = 3#3 ∧ (hostStep h s).finfo = w) ∨
    (∃ a, (h = .bufRead a ∨ ∃ b, h = .bufWrite a b) ∧ s.phase = .idle ∧ 999 < a.toNat ∧
      (hostStep h s).cause = 4#3 ∧ (hostStep h s).finfo = a.setWidth 32) ∨
    (h ≠ .regRead 1#3 ∧ h ≠ .reset ∧ s.phase = .busy ∧ (hostStep h s).cause = 5#3 ∧ (hostStep h s).finfo = s.cmdr)

/-- R188 at the operation that takes a fault: the four precise causes write FAULT, CAUSE, FINFO, clear BUSY and change
nothing else of the spec's state; `BusyFault` does the same to those, leaves CMDR, and makes BUF and the result
registers free values (R186, S2). -/
def Obligations.FaultEntryWritesTheFaultState : Prop :=
  (∀ c info s, (raiseFault c info s).fault = true ∧ (raiseFault c info s).cause = c.code ∧
    (raiseFault c info s).finfo = info ∧ (raiseFault c info s).busy = false ∧
    (raiseFault c info s).phase = .faulted ∧ (raiseFault c info s).cmdr = s.cmdr) ∧
  (∀ c info s, c ≠ .busyFault →
    SameSpecState { s with fault := true, cause := c.code, finfo := info, busy := false } (raiseFault c info s)) ∧
  (∀ info s, ∃ t, raiseFault .busyFault info s = t ∧ (∀ a, a < 1000 → byte t a = Config.freeBufByte s.draws a) ∧
    t.acc = Config.freeAcc s.draws ∧ t.chk = Config.freeChk s.draws ∧ t.flg = Config.freeFlg s.draws ∧
    t.plen = Config.freePlen s.draws ∧ t.txlen = Config.freeTxlen s.draws ∧ t.valid = Config.freeValid s.draws ∧
    t.t = Config.freeT s.draws)

/-- R186: any host step but a read of STATUS and `Reset`, in phase BUSY, is a `BusyFault`: the in-flight word is in
FINFO, the command is abandoned, BUF and the result registers hold free values (S2), whatever the step would have
written, and a read returns a free value (S3). -/
def Obligations.BusyFaultLosesBufferAndResults : Prop :=
  ∀ s h, s.phase = .busy → h ≠ .regRead 1#3 → h ≠ .reset →
    (hostStep h s).phase = .faulted ∧ (hostStep h s).cause = 5#3 ∧ (hostStep h s).finfo = s.cmdr ∧
    (hostStep h s).busy = false ∧ (hostStep h s).cmdr = s.cmdr ∧ engineTurn (hostStep h s) = false ∧
    (∀ a, a < 1000 → byte (hostStep h s) a = Config.freeBufByte s.draws a) ∧
    (hostStep h s).acc = Config.freeAcc s.draws ∧ (hostStep h s).chk = Config.freeChk s.draws ∧
    (hostStep h s).flg = Config.freeFlg s.draws ∧ (hostStep h s).plen = Config.freePlen s.draws ∧
    (hostStep h s).txlen = Config.freeTxlen s.draws ∧ (hostStep h s).valid = Config.freeValid s.draws ∧
    (hostStep h s).t = Config.freeT s.draws ∧
    (∀ a, h = .bufRead a → (hostStep h s).reply = some (.byte (Config.freeReplyByte (s.draws + 1)))) ∧
    (∀ r, h = .regRead r → (hostStep h s).reply = some (.word (Config.freeReplyWord (s.draws + 1))))

/-- R183: `ENCODE` with 996 to 1023 payload bytes faults at issue, starts nothing, and the block stays faulted through
every later host step but `Reset`. -/
def Obligations.CapacityFaultIsNotRecoverable : Prop :=
  ∀ n isFin, 996 ≤ n → n ≤ 1023 → RejectedAs 2#3 (encode (.encode n isFin)) ∧
    ∀ s h, h ≠ .reset → SameSpecState (faulted 2#3 (encode (.encode n isFin)) s)
      (hostStep h (faulted 2#3 (encode (.encode n isFin)) s))

/-- R189: in phase FAULTED every host step but `Reset` leaves the whole of the spec's state, so no further fault is recorded
(R191); reads return held values, beyond the buffer an unspecified byte; the step of the machine is the host's; and the
state is never a good end. -/
def Obligations.FaultedBlockIsFrozen : Prop :=
  ∀ s, s.phase = .faulted →
    (∀ h, h ≠ .reset → SameSpecState s (hostStep h s)) ∧
    (∀ r, (hostStep (.regRead r) s).reply = some (.word (regValue r s))) ∧
    (∀ a, (hostStep (.bufRead a) s).reply =
      some (.byte (if a.toNat ≤ 999 then byte s a.toNat else Config.freeReplyByte s.draws))) ∧
    step s = .next (hostMove s) ∧ s.goodEnd = false

/-- R30, R190: from phase FAULTED, a run of any length in which the host performs no `Reset` keeps the whole of the
spec's state. -/
def Obligations.FaultLastsUntilReset : Prop :=
  ∀ (k : Nat) (s t : State), s.phase = .faulted → (∀ x ∈ s.host, x ≠ .act .reset) →
    Host.Core.run core k s = .next t → SameSpecState s t

/-- R39, R210, R212: `Reset` in every phase sets every register and flag to 0 and the phase to IDLE, and leaves every
byte of BUF unspecified (a free value, S1); State.reset has the same registers and flags. That the host goes on with its
script is the model's (log entries 2 and 14), no rule of the spec. -/
def Obligations.ResetClearsAllButTheBuffer : Prop :=
  ∀ s t, hostStep .reset s = t →
    t.acc = 0#32 ∧ t.chk = 0#32 ∧ t.flg = 0#8 ∧ t.plen = 0#10 ∧ t.txlen = 0#10 ∧ t.finfo = 0#32 ∧ t.cmdr = 0#32 ∧
    t.busy = false ∧ t.fault = false ∧ t.cause = 0#3 ∧ t.valid = false ∧ t.t = false ∧ t.phase = .idle ∧
    (∀ a, a < 1000 → byte t a = Config.freeBufByte s.draws a) ∧
    t.host = s.host ∧ SameSpecState t { State.reset with buf := t.buf }

/-- R190, R210: the only step that clears FAULT is the host's `Reset`. -/
def Obligations.OnlyResetClearsFault : Prop :=
  ∀ s t, step s = .next t → s.fault = true → t.fault = false → Resets s

/-- R60: a read that takes no fault changes none of the spec's state and returns the same value when repeated; a
`BufWrite` done twice leaves the same state as once. -/
def Obligations.ReadsHaveNoSideEffect : Prop :=
  (∀ s r, (hostStep (.regRead r) s).fault = s.fault → SameSpecState s (hostStep (.regRead r) s) ∧
    (hostStep (.regRead r) (hostStep (.regRead r) s)).reply = (hostStep (.regRead r) s).reply) ∧
  (∀ s a, (hostStep (.bufRead a) s).fault = s.fault → SameSpecState s (hostStep (.bufRead a) s) ∧
    (a.toNat ≤ 999 → (hostStep (.bufRead a) (hostStep (.bufRead a) s)).reply = (hostStep (.bufRead a) s).reply)) ∧
  (∀ s a b, hostStep (.bufWrite a b) (hostStep (.bufWrite a b) s) = hostStep (.bufWrite a b) s)

/-! ## The whole machine -/

/-- The state after reset satisfies the invariant. -/
def Obligations.ResetSatisfiesInvariant : Prop := Invariant State.reset

/-- Every step keeps the invariant: the canonical memory, exclusive phases, a fault record as in R181, a legal word in
flight, PLEN and TXLEN in their ranges. -/
def Obligations.StepKeepsInvariant : Prop :=
  ∀ s t, Invariant s → step s = .next t → Invariant t

/-- R96: under the invariant the machine always has a next state: no step ends in a fault or a refusal of the model. -/
def Obligations.MachineNeverStops : Prop :=
  ∀ s, Invariant s → ∃ t, step s = .next t

/-- R96: when the word in flight decodes to a command and its latency has passed (log entry 4), the step is that command's
meaning, and BUSY cleared. -/
def Obligations.StepRunsTheDecodedCommand : Prop :=
  ∀ s i, s.phase = .busy → s.delay = 0 → decode s.cmdr = .ok i →
    ∃ u, exec i s = .next u ∧ step s = .next { u with busy := false, delay := 0 }

/-- R96: `Complete` is enabled in phase BUSY only, applies the command of CMDR, clears BUSY and raises no fault; while
the latency runs, and in the other phases, the step is the host's. -/
def Obligations.CompleteRaisesNoFault : Prop :=
  (∀ s i, s.phase = .busy → s.delay = 0 → decode s.cmdr = .ok i → operandFault pcodec i = none →
    ∃ u t, exec i s = .next u ∧ step s = .next t ∧ t = { u with busy := false, delay := 0 } ∧
      t.fault = false ∧ t.cause = s.cause ∧ t.finfo = s.finfo ∧ t.phase = .idle) ∧
  (∀ s, s.phase ≠ .busy ∨ s.delay ≠ 0 → step s = .next (hostMove s))

/-- Where the word in flight has an operand out of range, which no run reaches (log entry 6, the model's choice), the
command's own fault is taken, precisely. -/
def Obligations.OperandOutOfRangeTakesItsFault : Prop :=
  (∀ s n isFin, 995 < n → exec (.encode n isFin) s = .next { s with
    fault := true, cause := 2#3, finfo := encode (.encode n isFin), busy := false, delay := 0 }) ∧
  (∀ s length, length < 5 ∨ 1000 < length → exec (.decode length) s = .next { s with
    fault := true, cause := 3#3, finfo := encode (.decode length), busy := false, delay := 0 })

/-- R27, R37, R67: while a command stays in flight no step changes CMDR or anything else of the spec's state. -/
def Obligations.CommandInFlightCannotBeReplaced : Prop :=
  ∀ s t, step s = .next t → s.phase = .busy → t.phase = .busy → SameSpecState s t

/-- R29: BUSY is set only by the issue of a legal command in phase IDLE, and cleared only by completion, by a fault and by
reset. -/
def Obligations.BusyIsSetByIssueOnly : Prop :=
  (∀ s t, step s = .next t → s.busy = false → t.busy = true →
    s.phase = .idle ∧ ∃ w rest, s.host = .act (.regWrite 0#3 w) :: rest ∧ LegalWord w ∧ t.cmdr = w) ∧
  (∀ s t, step s = .next t → s.busy = true → t.busy = false →
    (∃ i, Completes s i) ∨ (s.fault = false ∧ t.fault = true) ∨ Resets s)

/-- R22 to R26, R31, R32, R219: a result register or condition flag changes in a step only by the completion of a
command that R219 lists for it, by `Reset` or by a `BusyFault`. -/
def Obligations.ResultRegistersHaveTheirWriters : Prop :=
  ∀ s t, step s = .next t →
    (t.acc ≠ s.acc → (∃ i, Completes s i ∧ writesAcc i = true) ∨ Resets s ∨ BusyFaults s t) ∧
    (t.chk ≠ s.chk → (∃ i, Completes s i ∧ writesChk i = true) ∨ Resets s ∨ BusyFaults s t) ∧
    (t.flg ≠ s.flg → (∃ i, Completes s i ∧ writesFlg i = true) ∨ Resets s ∨ BusyFaults s t) ∧
    (t.plen ≠ s.plen → (∃ i, Completes s i ∧ writesPlen i = true) ∨ Resets s ∨ BusyFaults s t) ∧
    (t.txlen ≠ s.txlen → (∃ i, Completes s i ∧ writesTxlen i = true) ∨ Resets s ∨ BusyFaults s t) ∧
    (t.valid ≠ s.valid → (∃ i, Completes s i ∧ writesValid i = true) ∨ Resets s ∨ BusyFaults s t) ∧
    (t.t ≠ s.t → (∃ i, Completes s i ∧ writesT i = true) ∨ Resets s ∨ BusyFaults s t)

/-- R217: a byte of BUF changes in a step only by an accepted `BufWrite` to it, by the completion of a command that R68
lists as writing it, by `Reset` or by a `BusyFault`. -/
def Obligations.BufferHasItsWriters : Prop :=
  ∀ s t a, step s = .next t → byte t a ≠ byte s a →
    (s.phase = .idle ∧ ∃ x b rest, s.host = .act (.bufWrite x b) :: rest ∧ x.toNat = a ∧ a ≤ 999 ∧ byte t a = b) ∨
    (∃ i, Completes s i ∧ writesByte i a = true) ∨ Resets s ∨ BusyFaults s t

/-- R221, R94: while the host only reads STATUS or waits, the command in flight completes, after as many turns as its latency
and one more, and the polls have changed nothing of its effect. -/
def Obligations.PollingReachesCompletion : Prop :=
  ∀ (s : State) i, s.phase = .busy → decode s.cmdr = .ok i → operandFault pcodec i = none → (∀ x ∈ s.host, Polls x) →
    ∃ u t : State, exec i s = .next u ∧ Host.Core.run core (s.delay + 1) s = .next t ∧
      t = { u with busy := false, delay := 0, host := t.host, reply := t.reply } ∧ t.phase = .idle

/-- R94, R52, R69: the script line `BWS a, b0 b1 …` in phase IDLE puts the bytes into BUF from `a` on, one per step, and
changes nothing else. -/
def Obligations.ScriptLoadsBytes : Prop :=
  ∀ (bytes : List Byte) a (s : State) rest, s.phase = .idle → a + bytes.length ≤ 1000 → s.host = scriptBytes a bytes ++ rest →
    ∃ t : State, Host.Core.run core bytes.length s = .next t ∧ t.host = rest ∧
      (∀ x, byte t x = if a ≤ x ∧ x < a + bytes.length then bytes.getD (x - a) 0x00#8 else byte s x) ∧
      SameSpecState { s with buf := t.buf } t

/-- R65 (3) and (4), R94, R96: in phase IDLE a script's command followed by `WAIT` is issued, completes after its
latency, and the `WAIT` then ends with a STATUS read of `BUSY = 0`; what the command did is its meaning at the state it
was issued in. -/
def Obligations.ScriptCommandTakesEffect : Prop :=
  ∀ i (s : State) rest, i.wellFormed = true → operandFault pcodec i = none → s.phase = .idle →
    s.host = scriptCommand i :: .wait :: rest →
    ∃ u t : State, exec i { s with cmdr := encode i, busy := true } = .next u ∧
      Host.Core.run core (s.nextLatency + 3) s = .next t ∧ t.host = rest ∧ t.phase = .idle ∧
      SameSpecState { u with busy := false } t ∧
      t.reply = some (.word (statusWord t)) ∧ (statusWord t).getLsbD 0 = false
end

