-- ==== Sys2Proof/Laws/Codec.lean ====
section
/-! SUPPORT. One lemma per field of State for the four packet operations, so that no proof unfolds them and none compares
checksums by evaluation. -/

namespace Sys2Proof.Machine

/-! ## encodePacket -/

@[simp] theorem encodePacket_buf (P : Config) (n : Nat) (isFin : Bool) (s : State) :
    (encodePacket P n isFin s).buf =
      Memory.write4 (framedBuffer P n isFin s.buf) P.ckOff (bufCrc P (framedBuffer P n isFin s.buf)) := (rfl)
@[simp] theorem encodePacket_acc (P : Config) (n : Nat) (isFin : Bool) (s : State) :
    (encodePacket P n isFin s).acc =
      bufCrc P (framedBuffer P n isFin s.buf) := (rfl)
@[simp] theorem encodePacket_chk (P : Config) (n : Nat) (isFin : Bool) (s : State) :
    (encodePacket P n isFin s).chk =
      s.chk := (rfl)
@[simp] theorem encodePacket_flg (P : Config) (n : Nat) (isFin : Bool) (s : State) :
    (encodePacket P n isFin s).flg =
      s.flg := (rfl)
@[simp] theorem encodePacket_plen (P : Config) (n : Nat) (isFin : Bool) (s : State) :
    (encodePacket P n isFin s).plen =
      lengthBits n := (rfl)
@[simp] theorem encodePacket_txlen (P : Config) (n : Nat) (isFin : Bool) (s : State) :
    (encodePacket P n isFin s).txlen =
      lengthBits P.bufSize := (rfl)
@[simp] theorem encodePacket_finfo (P : Config) (n : Nat) (isFin : Bool) (s : State) :
    (encodePacket P n isFin s).finfo =
      s.finfo := (rfl)
@[simp] theorem encodePacket_cmdr (P : Config) (n : Nat) (isFin : Bool) (s : State) :
    (encodePacket P n isFin s).cmdr =
      s.cmdr := (rfl)
@[simp] theorem encodePacket_busy (P : Config) (n : Nat) (isFin : Bool) (s : State) :
    (encodePacket P n isFin s).busy =
      s.busy := (rfl)
@[simp] theorem encodePacket_fault (P : Config) (n : Nat) (isFin : Bool) (s : State) :
    (encodePacket P n isFin s).fault =
      s.fault := (rfl)
@[simp] theorem encodePacket_cause (P : Config) (n : Nat) (isFin : Bool) (s : State) :
    (encodePacket P n isFin s).cause =
      s.cause := (rfl)
@[simp] theorem encodePacket_valid (P : Config) (n : Nat) (isFin : Bool) (s : State) :
    (encodePacket P n isFin s).valid =
      s.valid := (rfl)
@[simp] theorem encodePacket_t (P : Config) (n : Nat) (isFin : Bool) (s : State) : (encodePacket P n isFin s).t = s.t := (rfl)
@[simp] theorem encodePacket_host (P : Config) (n : Nat) (isFin : Bool) (s : State) :
    (encodePacket P n isFin s).host =
      s.host := (rfl)
@[simp] theorem encodePacket_reply (P : Config) (n : Nat) (isFin : Bool) (s : State) :
    (encodePacket P n isFin s).reply =
      s.reply := (rfl)
@[simp] theorem encodePacket_delay (P : Config) (n : Nat) (isFin : Bool) (s : State) :
    (encodePacket P n isFin s).delay =
      s.delay := (rfl)
@[simp] theorem encodePacket_latencies (P : Config) (n : Nat) (isFin : Bool) (s : State) :
    (encodePacket P n isFin s).latencies =
      s.latencies := (rfl)
@[simp] theorem encodePacket_draws (P : Config) (n : Nat) (isFin : Bool) (s : State) :
    (encodePacket P n isFin s).draws =
      s.draws := (rfl)

/-! ## decodePacket -/

@[simp] theorem decodePacket_buf (P : Config) (length : Nat) (s : State) : (decodePacket P length s).buf = s.buf := (rfl)
@[simp] theorem decodePacket_acc (P : Config) (length : Nat) (s : State) : (decodePacket P length s).acc = s.acc := (rfl)
@[simp] theorem decodePacket_chk (P : Config) (length : Nat) (s : State) :
    (decodePacket P length s).chk =
      Memory.read4 s.buf P.ckOff := (rfl)
@[simp] theorem decodePacket_flg (P : Config) (length : Nat) (s : State) :
    (decodePacket P length s).flg =
      Memory.read s.buf P.flagOff := (rfl)
@[simp] theorem decodePacket_plen (P : Config) (length : Nat) (s : State) :
    (decodePacket P length s).plen =
      payloadLength P length := (rfl)
@[simp] theorem decodePacket_txlen (P : Config) (length : Nat) (s : State) : (decodePacket P length s).txlen = s.txlen := (rfl)
@[simp] theorem decodePacket_finfo (P : Config) (length : Nat) (s : State) : (decodePacket P length s).finfo = s.finfo := (rfl)
@[simp] theorem decodePacket_cmdr (P : Config) (length : Nat) (s : State) : (decodePacket P length s).cmdr = s.cmdr := (rfl)
@[simp] theorem decodePacket_busy (P : Config) (length : Nat) (s : State) : (decodePacket P length s).busy = s.busy := (rfl)
@[simp] theorem decodePacket_fault (P : Config) (length : Nat) (s : State) : (decodePacket P length s).fault = s.fault := (rfl)
@[simp] theorem decodePacket_cause (P : Config) (length : Nat) (s : State) : (decodePacket P length s).cause = s.cause := (rfl)
@[simp] theorem decodePacket_valid (P : Config) (length : Nat) (s : State) : (decodePacket P length s).valid = s.valid := (rfl)
@[simp] theorem decodePacket_t (P : Config) (length : Nat) (s : State) : (decodePacket P length s).t = s.t := (rfl)
@[simp] theorem decodePacket_host (P : Config) (length : Nat) (s : State) : (decodePacket P length s).host = s.host := (rfl)
@[simp] theorem decodePacket_reply (P : Config) (length : Nat) (s : State) : (decodePacket P length s).reply = s.reply := (rfl)
@[simp] theorem decodePacket_delay (P : Config) (length : Nat) (s : State) : (decodePacket P length s).delay = s.delay := (rfl)
@[simp] theorem decodePacket_latencies (P : Config) (length : Nat) (s : State) :
    (decodePacket P length s).latencies =
      s.latencies := (rfl)
@[simp] theorem decodePacket_draws (P : Config) (length : Nat) (s : State) : (decodePacket P length s).draws = s.draws := (rfl)

/-! ## verifyPacket -/

@[simp] theorem verifyPacket_buf (P : Config) (s : State) : (verifyPacket P s).buf = s.buf := (rfl)
@[simp] theorem verifyPacket_acc (P : Config) (s : State) : (verifyPacket P s).acc = bufCrc P s.buf := (rfl)
@[simp] theorem verifyPacket_chk (P : Config) (s : State) : (verifyPacket P s).chk = Memory.read4 s.buf P.ckOff := (rfl)
@[simp] theorem verifyPacket_flg (P : Config) (s : State) : (verifyPacket P s).flg = s.flg := (rfl)
@[simp] theorem verifyPacket_plen (P : Config) (s : State) : (verifyPacket P s).plen = s.plen := (rfl)
@[simp] theorem verifyPacket_txlen (P : Config) (s : State) : (verifyPacket P s).txlen = s.txlen := (rfl)
@[simp] theorem verifyPacket_finfo (P : Config) (s : State) : (verifyPacket P s).finfo = s.finfo := (rfl)
@[simp] theorem verifyPacket_cmdr (P : Config) (s : State) : (verifyPacket P s).cmdr = s.cmdr := (rfl)
@[simp] theorem verifyPacket_busy (P : Config) (s : State) : (verifyPacket P s).busy = s.busy := (rfl)
@[simp] theorem verifyPacket_fault (P : Config) (s : State) : (verifyPacket P s).fault = s.fault := (rfl)
@[simp] theorem verifyPacket_cause (P : Config) (s : State) : (verifyPacket P s).cause = s.cause := (rfl)
@[simp] theorem verifyPacket_valid (P : Config) (s : State) :
    (verifyPacket P s).valid =
      checksumMatches (bufCrc P s.buf) (Memory.read4 s.buf P.ckOff) := (rfl)
@[simp] theorem verifyPacket_t (P : Config) (s : State) : (verifyPacket P s).t = s.t := (rfl)
@[simp] theorem verifyPacket_host (P : Config) (s : State) : (verifyPacket P s).host = s.host := (rfl)
@[simp] theorem verifyPacket_reply (P : Config) (s : State) : (verifyPacket P s).reply = s.reply := (rfl)
@[simp] theorem verifyPacket_delay (P : Config) (s : State) : (verifyPacket P s).delay = s.delay := (rfl)
@[simp] theorem verifyPacket_latencies (P : Config) (s : State) : (verifyPacket P s).latencies = s.latencies := (rfl)
@[simp] theorem verifyPacket_draws (P : Config) (s : State) : (verifyPacket P s).draws = s.draws := (rfl)

/-! ## makeAck -/

@[simp] theorem makeAck_buf (P : Config) (positive : Bool) (s : State) :
    (makeAck P positive s).buf =
      Memory.write (Memory.write4 s.buf P.ckOff 0#32) P.flagOff (ackFlags P positive) := (rfl)
@[simp] theorem makeAck_acc (P : Config) (positive : Bool) (s : State) : (makeAck P positive s).acc = s.acc := (rfl)
@[simp] theorem makeAck_chk (P : Config) (positive : Bool) (s : State) : (makeAck P positive s).chk = s.chk := (rfl)
@[simp] theorem makeAck_flg (P : Config) (positive : Bool) (s : State) : (makeAck P positive s).flg = s.flg := (rfl)
@[simp] theorem makeAck_plen (P : Config) (positive : Bool) (s : State) : (makeAck P positive s).plen = lengthBits 0 := (rfl)
@[simp] theorem makeAck_txlen (P : Config) (positive : Bool) (s : State) :
    (makeAck P positive s).txlen =
      lengthBits P.ackLen := (rfl)
@[simp] theorem makeAck_finfo (P : Config) (positive : Bool) (s : State) : (makeAck P positive s).finfo = s.finfo := (rfl)
@[simp] theorem makeAck_cmdr (P : Config) (positive : Bool) (s : State) : (makeAck P positive s).cmdr = s.cmdr := (rfl)
@[simp] theorem makeAck_busy (P : Config) (positive : Bool) (s : State) : (makeAck P positive s).busy = s.busy := (rfl)
@[simp] theorem makeAck_fault (P : Config) (positive : Bool) (s : State) : (makeAck P positive s).fault = s.fault := (rfl)
@[simp] theorem makeAck_cause (P : Config) (positive : Bool) (s : State) : (makeAck P positive s).cause = s.cause := (rfl)
@[simp] theorem makeAck_valid (P : Config) (positive : Bool) (s : State) : (makeAck P positive s).valid = s.valid := (rfl)
@[simp] theorem makeAck_t (P : Config) (positive : Bool) (s : State) : (makeAck P positive s).t = s.t := (rfl)
@[simp] theorem makeAck_host (P : Config) (positive : Bool) (s : State) : (makeAck P positive s).host = s.host := (rfl)
@[simp] theorem makeAck_reply (P : Config) (positive : Bool) (s : State) : (makeAck P positive s).reply = s.reply := (rfl)
@[simp] theorem makeAck_delay (P : Config) (positive : Bool) (s : State) : (makeAck P positive s).delay = s.delay := (rfl)
@[simp] theorem makeAck_latencies (P : Config) (positive : Bool) (s : State) :
    (makeAck P positive s).latencies =
      s.latencies := (rfl)
@[simp] theorem makeAck_draws (P : Config) (positive : Bool) (s : State) : (makeAck P positive s).draws = s.draws := (rfl)

end Sys2Proof.Machine
end

