-- ==== Sys2Proof/Laws/Params.lean ====
section
/-! SUPPORT. This hardware's parameters, one lemma each (R5), and that they satisfy R5's constraints. -/

namespace Sys2Proof.Machine

@[simp] theorem pcodec_bufSize : pcodec.bufSize = 1000 := (rfl)
@[simp] theorem pcodec_ckOff : pcodec.ckOff = 0 := (rfl)
@[simp] theorem pcodec_ckSize : pcodec.ckSize = 4 := (rfl)
@[simp] theorem pcodec_flagOff : pcodec.flagOff = 4 := (rfl)
@[simp] theorem pcodec_hdrSize : pcodec.hdrSize = 5 := (rfl)
@[simp] theorem pcodec_payOff : pcodec.payOff = 5 := (rfl)
@[simp] theorem pcodec_maxPayload : pcodec.maxPayload = 995 := (rfl)
@[simp] theorem pcodec_ackMask : pcodec.ackMask = 0x01#8 := (rfl)
@[simp] theorem pcodec_finMask : pcodec.finMask = 0x02#8 := (rfl)
@[simp] theorem pcodec_ackLen : pcodec.ackLen = 5 := (rfl)
@[simp] theorem pcodec_fill : pcodec.fill = 0x00#8 := (rfl)
@[simp] theorem pcodec_crc32 : pcodec.crc32 = crc32 := (rfl)

/-- The parameters satisfy R5's constraints. -/
theorem pcodec_consistent : pcodec.Consistent where
  bufSize_gt := by simp
  bufSize_addressable := by simp
  ckSize_eq := by simp
  flagOff_eq := by simp
  hdrSize_eq := by simp
  payOff_eq := by simp
  maxPayload_eq := by simp
  ackMask_bit := ⟨0, by decide⟩
  finMask_bit := ⟨1, by decide⟩
  masks_differ := by simp
  ackLen_eq := by simp

end Sys2Proof.Machine
end

