-- ==== Sys2Proof/Laws/Memory.lean ====
section
/-! SUPPORT. The laws of BUF's bytes: read after write, what a write leaves alone, the canonical form (log entry 1), and that
memories in canonical form are equal when they read the same. -/

namespace Sys2Proof.Machine.Memory

/-! ## One byte -/

theorem read_of_absent {m : Memory} {a : Nat} (h : ∀ cell ∈ m, cell.1 ≠ a) : read m a = unlisted := by
  induction m with
  | nil => rfl
  | cons cell m ih =>
    have hne : cell.1 ≠ a := h cell (by simp)
    simp only [read, if_neg hne]
    exact ih fun c hc => h c (by simp [hc])

theorem erase_absent (m : Memory) (a : Nat) : ∀ cell ∈ erase m a, cell.1 ≠ a := by
  intro cell hc
  simpa using (List.mem_filter.mp hc).2

theorem read_erase_ne {m : Memory} {a x : Nat} (h : x ≠ a) : read (erase m a) x = read m x := by
  induction m with
  | nil => rfl
  | cons cell m ih =>
    by_cases hk : cell.1 = a
    · simpa [erase, hk, read, Ne.symm h] using ih
    · by_cases hx : cell.1 = x
      · simp [erase, read, hx, h]
      · simpa [erase, hk, read, hx] using ih

theorem read_insert_same {m : Memory} {a : Nat} (b : Byte) (h : ∀ cell ∈ m, cell.1 ≠ a) :
    read (insert a b m) a = b := by
  induction m with
  | nil => simp [insert, read]
  | cons cell m ih =>
    have hne : cell.1 ≠ a := h cell (by simp)
    by_cases hlt : a < cell.1
    · simp [insert, hlt, read]
    · simp only [insert, if_neg hlt, read, if_neg hne]
      exact ih fun c hc => h c (by simp [hc])

theorem read_insert_ne {m : Memory} {a x : Nat} (b : Byte) (h : x ≠ a) :
    read (insert a b m) x = read m x := by
  induction m with
  | nil => simp [insert, read, Ne.symm h]
  | cons cell m ih =>
    by_cases hlt : a < cell.1
    · simp [insert, hlt, read, Ne.symm h]
    · simp only [insert, if_neg hlt, read, ih]

/-- A byte reads as what was last written to it. -/
@[simp] theorem read_write_same (m : Memory) (a : Nat) (b : Byte) : read (write m a b) a = b := by
  unfold write
  split
  · rename_i hb
    rw [read_of_absent (erase_absent m a), hb]
  · exact read_insert_same b (erase_absent m a)

/-- A write leaves every other byte alone. -/
theorem read_write_ne {m : Memory} {a x : Nat} (b : Byte) (h : x ≠ a) : read (write m a b) x = read m x := by
  unfold write
  split
  · exact read_erase_ne h
  · rw [read_insert_ne b h, read_erase_ne h]

theorem read_write (m : Memory) (a x : Nat) (b : Byte) :
    read (write m a b) x = if x = a then b else read m x := by
  split
  · subst_vars; exact read_write_same ..
  · exact read_write_ne b ‹_›

/-! ## Four bytes and runs of bytes -/

/-- What every byte reads as after a four-byte write (R56). -/
theorem read_write4 (m : Memory) (a x : Nat) (v : Word) :
    read (write4 m a v) x =
      if x = a then v.extractLsb' 24 8
      else if x = a + 1 then v.extractLsb' 16 8
      else if x = a + 2 then v.extractLsb' 8 8
      else if x = a + 3 then v.extractLsb' 0 8
      else read m x := by
  simp only [write4, read_write]
  by_cases h0 : x = a
  · subst h0; simp
  · by_cases h1 : x = a + 1
    · subst h1; simp
    · by_cases h2 : x = a + 2
      · subst h2; simp
      · simp only [h0, h1, h2, if_false]

/-- The bytes written one after another by a function of the address (R142's loop, R186). -/
theorem read_foldl_write (f : Nat → Byte) (m : Memory) (lo n x : Nat) :
    read ((List.range' lo n).foldl (fun m i => write m i (f i)) m) x =
      if lo ≤ x ∧ x < lo + n then f x else read m x := by
  induction n generalizing lo m with
  | zero =>
    simp
  | succ n ih =>
    rw [List.range'_succ, List.foldl_cons, ih, read_write]
    by_cases h0 : x = lo
    · subst h0; simp
    · have : (lo + 1 ≤ x ∧ x < lo + 1 + n) ↔ (lo ≤ x ∧ x < lo + (n + 1)) := by omega
      simp only [this, h0, if_false]

/-- The filler (R142): every byte from `lo` to the end of the buffer is `FILL`, the others are as before. -/
theorem read_fillFrom (P : Config) (m : Memory) (lo x : Nat) :
    read (fillFrom P m lo) x = if lo ≤ x ∧ x < P.bufSize then P.fill else read m x := by
  rw [fillFrom, read_foldl_write (fun _ => P.fill)]
  have : (lo ≤ x ∧ x < lo + (P.bufSize - lo)) ↔ (lo ≤ x ∧ x < P.bufSize) := by omega
  simp only [this]

/-- Every byte of an unspecified buffer is its own free value (R39, R186). -/
theorem read_unspecified (P : Config) (draw x : Nat) :
    read (unspecified P draw) x = if x < P.bufSize then Config.freeBufByte draw x else unlisted := by
  rw [unspecified, read_foldl_write (Config.freeBufByte draw)]
  simp only [Nat.zero_le, true_and, Nat.zero_add, read]

/-- A run of bytes depends only on the bytes of the run. -/
theorem slice_congr {m m' : Memory} {lo n : Nat} (h : ∀ x, lo ≤ x → x < lo + n → read m x = read m' x) :
    slice m lo n = slice m' lo n := by
  apply List.map_congr_left
  intro x hx
  rw [List.mem_range'_1] at hx
  exact h x hx.1 hx.2

/-- The buffer's checksum does not depend on the checksum field (R116). -/
theorem bufCrc_congr (P : Config) {m m' : Memory}
    (h : ∀ x, x < P.ckOff ∨ P.ckOff + P.ckSize ≤ x ∧ x < P.bufSize → read m x = read m' x) : bufCrc P m = bufCrc P m' := by
  have low : slice m 0 P.ckOff = slice m' 0 P.ckOff := slice_congr fun x _ h₂ => h x (.inl (by omega))
  rw [bufCrc, bufCrc, low, slice_congr fun x h₁ h₂ => h x (.inr ⟨h₁, by omega⟩)]

/-- On this hardware: the checksum depends on `BUF[4..999]` alone. -/
theorem bufCrc_pcodec_congr {m m' : Memory} (h : ∀ x, 4 ≤ x → x < 1000 → read m x = read m' x) :
    bufCrc pcodec m = bufCrc pcodec m' :=
  bufCrc_congr pcodec fun x hx => by
    simp only [pcodec_ckOff, pcodec_ckSize, pcodec_bufSize] at hx
    exact h x (by omega) (by omega)

/-! ## The canonical form -/

theorem mem_insert {a : Nat} {b : Byte} {m : Memory} {cell : Host.Cell} (h : cell ∈ insert a b m) :
    cell = (a, b) ∨ cell ∈ m := by
  induction m with
  | nil => simpa [insert] using h
  | cons c m ih =>
    by_cases hlt : a < c.1
    · simpa [insert, hlt] using h
    · rw [insert, if_neg hlt, List.mem_cons] at h
      rcases h with h | h
      · exact .inr (by simp [h])
      · exact (ih h).imp_right fun h => List.mem_cons_of_mem _ h

theorem insert_rising {a : Nat} {b : Byte} {m : Memory} (ha : ∀ cell ∈ m, cell.1 ≠ a)
    (h : m.Pairwise (fun x y => x.1 < y.1)) : (insert a b m).Pairwise (fun x y => x.1 < y.1) := by
  induction m with
  | nil => simp [insert]
  | cons c m ih =>
    have hc : c.1 ≠ a := ha c (by simp)
    rw [List.pairwise_cons] at h
    by_cases hlt : a < c.1
    · rw [insert, if_pos hlt, List.pairwise_cons, List.pairwise_cons]
      refine ⟨fun y hy => ?_, h⟩
      rcases List.mem_cons.mp hy with rfl | hy
      · exact hlt
      · exact Nat.lt_trans hlt (h.1 y hy)
    · rw [insert, if_neg hlt, List.pairwise_cons]
      refine ⟨fun y hy => ?_, ih (fun d hd => ha d (by simp [hd])) h.2⟩
      rcases mem_insert hy with rfl | hy
      · exact Nat.lt_of_le_of_ne (Nat.le_of_not_lt hlt) hc
      · exact h.1 y hy

theorem erase_wf {m : Memory} (a : Nat) (h : wf m) : wf (erase m a) :=
  ⟨h.1.sublist List.filter_sublist, fun cell hc => h.2 cell (List.mem_filter.mp hc).1⟩

/-- A write inside BUF keeps the canonical form. -/
theorem write_wf {m : Memory} {a : Nat} (b : Byte) (ha : a < 1000) (h : wf m) : wf (write m a b) := by
  have he := erase_wf a h
  unfold write
  split
  · exact he
  · rename_i hb
    refine ⟨insert_rising (erase_absent m a) he.1, fun cell hc => ?_⟩
    rcases mem_insert hc with rfl | hc
    · exact ⟨ha, hb⟩
    · exact he.2 cell hc

theorem write4_wf {m : Memory} {a : Nat} (v : Word) (ha : a + 3 < 1000) (h : wf m) : wf (write4 m a v) :=
  write_wf _ ha (write_wf _ (by omega) (write_wf _ (by omega) (write_wf _ (by omega) h)))

theorem foldl_write_wf (f : Nat → Byte) {m : Memory} (lo n : Nat) (hn : lo + n ≤ 1000) (h : wf m) :
    wf ((List.range' lo n).foldl (fun m i => write m i (f i)) m) := by
  induction n generalizing lo m with
  | zero => simpa using h
  | succ n ih =>
    rw [List.range'_succ, List.foldl_cons]
    exact ih (lo + 1) (by omega) (write_wf _ (by omega) h)

theorem fillFrom_wf {m : Memory} (lo : Nat) (h : wf m) : wf (fillFrom pcodec m lo) := by
  by_cases hlo : lo ≤ 1000
  · rw [fillFrom]
    exact foldl_write_wf (fun _ => pcodec.fill) lo (pcodec.bufSize - lo) (by simp only [pcodec]; omega) h
  · have : pcodec.bufSize - lo = 0 := by simp only [pcodec]; omega
    rw [fillFrom, this]
    exact h

theorem empty_wf : wf [] := by simp [wf]

theorem unspecified_wf (draw : Nat) : wf (unspecified pcodec draw) := by
  rw [unspecified]
  exact foldl_write_wf (Config.freeBufByte draw) 0 pcodec.bufSize (Nat.le_refl 1000) empty_wf

theorem read_lt_head {cell : Host.Cell} {m : Memory} (h : wf (cell :: m)) {x : Nat} (hx : x < cell.1) :
    read (cell :: m) x = unlisted := by
  apply read_of_absent
  intro c hc
  rcases List.mem_cons.mp hc with rfl | hc
  · omega
  · have := (List.pairwise_cons.mp h.1).1 c hc
    omega

theorem wf_tail {cell : Host.Cell} {m : Memory} (h : wf (cell :: m)) : wf m :=
  ⟨(List.pairwise_cons.mp h.1).2, fun c hc => h.2 c (by simp [hc])⟩

theorem read_tail {cell : Host.Cell} {m : Memory} (h : wf (cell :: m)) (x : Nat) :
    read m x = if x = cell.1 then unlisted else read (cell :: m) x := by
  by_cases hx : x = cell.1
  · rw [if_pos hx, hx]
    exact read_of_absent fun c hc => Nat.ne_of_gt ((List.pairwise_cons.mp h.1).1 c hc)
  · rw [if_neg hx, read, if_neg (Ne.symm hx)]

/-- Memories in canonical form that read the same are the same data. -/
theorem eq_of_read_eq {m m' : Memory} (h : wf m) (h' : wf m') (heq : ∀ x, read m x = read m' x) : m = m' := by
  induction m generalizing m' with
  | nil =>
    cases m' with
    | nil => rfl
    | cons c' m' => exact absurd (by simpa [read] using (heq c'.1).symm) (h'.2 c' (by simp)).2
  | cons c m ih =>
    have hc : read (c :: m) c.1 = c.2 := by simp [read]
    have hcne : c.2 ≠ unlisted := (h.2 c (by simp)).2
    cases m' with
    | nil => exact absurd (hc.symm.trans (heq c.1)) hcne
    | cons c' m' =>
      have hc' : read (c' :: m') c'.1 = c'.2 := by simp [read]
      have hcne' : c'.2 ≠ unlisted := (h'.2 c' (by simp)).2
      have hk : c.1 = c'.1 := by
        rcases Nat.lt_trichotomy c.1 c'.1 with hlt | heq' | hgt
        · exact absurd (hc.symm.trans ((heq c.1).trans (read_lt_head h' hlt))) hcne
        · exact heq'
        · exact absurd (hc'.symm.trans ((heq c'.1).symm.trans (read_lt_head h hgt))) hcne'
      have hv : c.2 = c'.2 := by rw [← hc, ← hc', hk]; exact heq c'.1
      have htail : m = m' := ih (wf_tail h) (wf_tail h') fun x => by
        rw [read_tail h, read_tail h', hk, heq]
      rw [htail, Prod.ext hk hv]

end Sys2Proof.Machine.Memory
end

