-- ==== Sys2Proof/Laws/State.lean ====
section
/-! SUPPORT. One lemma per field of State for each named update of it, so that no proof unfolds a record update. -/

namespace Sys2Proof.Machine.State

/-! ## enterFault -/

@[simp] theorem enterFault_buf (c : FaultCause) (w : Word) (s : State) : (s.enterFault c w).buf = s.buf := rfl
@[simp] theorem enterFault_acc (c : FaultCause) (w : Word) (s : State) : (s.enterFault c w).acc = s.acc := rfl
@[simp] theorem enterFault_chk (c : FaultCause) (w : Word) (s : State) : (s.enterFault c w).chk = s.chk := rfl
@[simp] theorem enterFault_flg (c : FaultCause) (w : Word) (s : State) : (s.enterFault c w).flg = s.flg := rfl
@[simp] theorem enterFault_plen (c : FaultCause) (w : Word) (s : State) : (s.enterFault c w).plen = s.plen := rfl
@[simp] theorem enterFault_txlen (c : FaultCause) (w : Word) (s : State) : (s.enterFault c w).txlen = s.txlen := rfl
@[simp] theorem enterFault_finfo (c : FaultCause) (w : Word) (s : State) : (s.enterFault c w).finfo = w := rfl
@[simp] theorem enterFault_cmdr (c : FaultCause) (w : Word) (s : State) : (s.enterFault c w).cmdr = s.cmdr := rfl
@[simp] theorem enterFault_busy (c : FaultCause) (w : Word) (s : State) : (s.enterFault c w).busy = false := rfl
@[simp] theorem enterFault_fault (c : FaultCause) (w : Word) (s : State) : (s.enterFault c w).fault = true := rfl
@[simp] theorem enterFault_cause (c : FaultCause) (w : Word) (s : State) : (s.enterFault c w).cause = c.code := rfl
@[simp] theorem enterFault_valid (c : FaultCause) (w : Word) (s : State) : (s.enterFault c w).valid = s.valid := rfl
@[simp] theorem enterFault_t (c : FaultCause) (w : Word) (s : State) : (s.enterFault c w).t = s.t := rfl
@[simp] theorem enterFault_host (c : FaultCause) (w : Word) (s : State) : (s.enterFault c w).host = s.host := rfl
@[simp] theorem enterFault_reply (c : FaultCause) (w : Word) (s : State) : (s.enterFault c w).reply = s.reply := rfl
@[simp] theorem enterFault_delay (c : FaultCause) (w : Word) (s : State) : (s.enterFault c w).delay = 0 := rfl
@[simp] theorem enterFault_latencies (c : FaultCause) (w : Word) (s : State) : (s.enterFault c w).latencies = s.latencies := rfl
@[simp] theorem enterFault_draws (c : FaultCause) (w : Word) (s : State) : (s.enterFault c w).draws = s.draws := rfl

/-! ## scramble -/

@[simp] theorem scramble_buf (s : State) : (s.scramble).buf = Memory.unspecified pcodec s.draws := (rfl)
@[simp] theorem scramble_acc (s : State) : (s.scramble).acc = Config.freeAcc s.draws := (rfl)
@[simp] theorem scramble_chk (s : State) : (s.scramble).chk = Config.freeChk s.draws := (rfl)
@[simp] theorem scramble_flg (s : State) : (s.scramble).flg = Config.freeFlg s.draws := (rfl)
@[simp] theorem scramble_plen (s : State) : (s.scramble).plen = Config.freePlen s.draws := (rfl)
@[simp] theorem scramble_txlen (s : State) : (s.scramble).txlen = Config.freeTxlen s.draws := (rfl)
@[simp] theorem scramble_finfo (s : State) : (s.scramble).finfo = s.finfo := (rfl)
@[simp] theorem scramble_cmdr (s : State) : (s.scramble).cmdr = s.cmdr := (rfl)
@[simp] theorem scramble_busy (s : State) : (s.scramble).busy = s.busy := (rfl)
@[simp] theorem scramble_fault (s : State) : (s.scramble).fault = s.fault := (rfl)
@[simp] theorem scramble_cause (s : State) : (s.scramble).cause = s.cause := (rfl)
@[simp] theorem scramble_valid (s : State) : (s.scramble).valid = Config.freeValid s.draws := (rfl)
@[simp] theorem scramble_t (s : State) : (s.scramble).t = Config.freeT s.draws := (rfl)
@[simp] theorem scramble_host (s : State) : (s.scramble).host = s.host := (rfl)
@[simp] theorem scramble_reply (s : State) : (s.scramble).reply = s.reply := (rfl)
@[simp] theorem scramble_delay (s : State) : (s.scramble).delay = s.delay := (rfl)
@[simp] theorem scramble_latencies (s : State) : (s.scramble).latencies = s.latencies := (rfl)
@[simp] theorem scramble_draws (s : State) : (s.scramble).draws = s.draws + 1 := (rfl)

/-! ## answer -/

@[simp] theorem answer_buf (r : Option Reply) (s : State) : (s.answer r).buf = s.buf := rfl
@[simp] theorem answer_acc (r : Option Reply) (s : State) : (s.answer r).acc = s.acc := rfl
@[simp] theorem answer_chk (r : Option Reply) (s : State) : (s.answer r).chk = s.chk := rfl
@[simp] theorem answer_flg (r : Option Reply) (s : State) : (s.answer r).flg = s.flg := rfl
@[simp] theorem answer_plen (r : Option Reply) (s : State) : (s.answer r).plen = s.plen := rfl
@[simp] theorem answer_txlen (r : Option Reply) (s : State) : (s.answer r).txlen = s.txlen := rfl
@[simp] theorem answer_finfo (r : Option Reply) (s : State) : (s.answer r).finfo = s.finfo := rfl
@[simp] theorem answer_cmdr (r : Option Reply) (s : State) : (s.answer r).cmdr = s.cmdr := rfl
@[simp] theorem answer_busy (r : Option Reply) (s : State) : (s.answer r).busy = s.busy := rfl
@[simp] theorem answer_fault (r : Option Reply) (s : State) : (s.answer r).fault = s.fault := rfl
@[simp] theorem answer_cause (r : Option Reply) (s : State) : (s.answer r).cause = s.cause := rfl
@[simp] theorem answer_valid (r : Option Reply) (s : State) : (s.answer r).valid = s.valid := rfl
@[simp] theorem answer_t (r : Option Reply) (s : State) : (s.answer r).t = s.t := rfl
@[simp] theorem answer_host (r : Option Reply) (s : State) : (s.answer r).host = s.host := rfl
@[simp] theorem answer_reply (r : Option Reply) (s : State) : (s.answer r).reply = r := rfl
@[simp] theorem answer_delay (r : Option Reply) (s : State) : (s.answer r).delay = s.delay := rfl
@[simp] theorem answer_latencies (r : Option Reply) (s : State) : (s.answer r).latencies = s.latencies := rfl
@[simp] theorem answer_draws (r : Option Reply) (s : State) : (s.answer r).draws = s.draws := rfl

/-! ## answerUnspecifiedByte -/

@[simp] theorem answerUnspecifiedByte_buf (s : State) : (s.answerUnspecifiedByte).buf = s.buf := rfl
@[simp] theorem answerUnspecifiedByte_acc (s : State) : (s.answerUnspecifiedByte).acc = s.acc := rfl
@[simp] theorem answerUnspecifiedByte_chk (s : State) : (s.answerUnspecifiedByte).chk = s.chk := rfl
@[simp] theorem answerUnspecifiedByte_flg (s : State) : (s.answerUnspecifiedByte).flg = s.flg := rfl
@[simp] theorem answerUnspecifiedByte_plen (s : State) : (s.answerUnspecifiedByte).plen = s.plen := rfl
@[simp] theorem answerUnspecifiedByte_txlen (s : State) : (s.answerUnspecifiedByte).txlen = s.txlen := rfl
@[simp] theorem answerUnspecifiedByte_finfo (s : State) : (s.answerUnspecifiedByte).finfo = s.finfo := rfl
@[simp] theorem answerUnspecifiedByte_cmdr (s : State) : (s.answerUnspecifiedByte).cmdr = s.cmdr := rfl
@[simp] theorem answerUnspecifiedByte_busy (s : State) : (s.answerUnspecifiedByte).busy = s.busy := rfl
@[simp] theorem answerUnspecifiedByte_fault (s : State) : (s.answerUnspecifiedByte).fault = s.fault := rfl
@[simp] theorem answerUnspecifiedByte_cause (s : State) : (s.answerUnspecifiedByte).cause = s.cause := rfl
@[simp] theorem answerUnspecifiedByte_valid (s : State) : (s.answerUnspecifiedByte).valid = s.valid := rfl
@[simp] theorem answerUnspecifiedByte_t (s : State) : (s.answerUnspecifiedByte).t = s.t := rfl
@[simp] theorem answerUnspecifiedByte_host (s : State) : (s.answerUnspecifiedByte).host = s.host := rfl
@[simp] theorem answerUnspecifiedByte_reply (s : State) : (s.answerUnspecifiedByte).reply = some (.byte (Config.freeReplyByte s.draws)) := rfl
@[simp] theorem answerUnspecifiedByte_delay (s : State) : (s.answerUnspecifiedByte).delay = s.delay := rfl
@[simp] theorem answerUnspecifiedByte_latencies (s : State) : (s.answerUnspecifiedByte).latencies = s.latencies := rfl
@[simp] theorem answerUnspecifiedByte_draws (s : State) : (s.answerUnspecifiedByte).draws = s.draws + 1 := rfl

/-! ## answerUnspecifiedWord -/

@[simp] theorem answerUnspecifiedWord_buf (s : State) : (s.answerUnspecifiedWord).buf = s.buf := rfl
@[simp] theorem answerUnspecifiedWord_acc (s : State) : (s.answerUnspecifiedWord).acc = s.acc := rfl
@[simp] theorem answerUnspecifiedWord_chk (s : State) : (s.answerUnspecifiedWord).chk = s.chk := rfl
@[simp] theorem answerUnspecifiedWord_flg (s : State) : (s.answerUnspecifiedWord).flg = s.flg := rfl
@[simp] theorem answerUnspecifiedWord_plen (s : State) : (s.answerUnspecifiedWord).plen = s.plen := rfl
@[simp] theorem answerUnspecifiedWord_txlen (s : State) : (s.answerUnspecifiedWord).txlen = s.txlen := rfl
@[simp] theorem answerUnspecifiedWord_finfo (s : State) : (s.answerUnspecifiedWord).finfo = s.finfo := rfl
@[simp] theorem answerUnspecifiedWord_cmdr (s : State) : (s.answerUnspecifiedWord).cmdr = s.cmdr := rfl
@[simp] theorem answerUnspecifiedWord_busy (s : State) : (s.answerUnspecifiedWord).busy = s.busy := rfl
@[simp] theorem answerUnspecifiedWord_fault (s : State) : (s.answerUnspecifiedWord).fault = s.fault := rfl
@[simp] theorem answerUnspecifiedWord_cause (s : State) : (s.answerUnspecifiedWord).cause = s.cause := rfl
@[simp] theorem answerUnspecifiedWord_valid (s : State) : (s.answerUnspecifiedWord).valid = s.valid := rfl
@[simp] theorem answerUnspecifiedWord_t (s : State) : (s.answerUnspecifiedWord).t = s.t := rfl
@[simp] theorem answerUnspecifiedWord_host (s : State) : (s.answerUnspecifiedWord).host = s.host := rfl
@[simp] theorem answerUnspecifiedWord_reply (s : State) : (s.answerUnspecifiedWord).reply = some (.word (Config.freeReplyWord s.draws)) := rfl
@[simp] theorem answerUnspecifiedWord_delay (s : State) : (s.answerUnspecifiedWord).delay = s.delay := rfl
@[simp] theorem answerUnspecifiedWord_latencies (s : State) : (s.answerUnspecifiedWord).latencies = s.latencies := rfl
@[simp] theorem answerUnspecifiedWord_draws (s : State) : (s.answerUnspecifiedWord).draws = s.draws + 1 := rfl

/-! ## accept -/

@[simp] theorem accept_buf (w : Word) (s : State) : (s.accept w).buf = s.buf := rfl
@[simp] theorem accept_acc (w : Word) (s : State) : (s.accept w).acc = s.acc := rfl
@[simp] theorem accept_chk (w : Word) (s : State) : (s.accept w).chk = s.chk := rfl
@[simp] theorem accept_flg (w : Word) (s : State) : (s.accept w).flg = s.flg := rfl
@[simp] theorem accept_plen (w : Word) (s : State) : (s.accept w).plen = s.plen := rfl
@[simp] theorem accept_txlen (w : Word) (s : State) : (s.accept w).txlen = s.txlen := rfl
@[simp] theorem accept_finfo (w : Word) (s : State) : (s.accept w).finfo = s.finfo := rfl
@[simp] theorem accept_cmdr (w : Word) (s : State) : (s.accept w).cmdr = w := rfl
@[simp] theorem accept_busy (w : Word) (s : State) : (s.accept w).busy = true := rfl
@[simp] theorem accept_fault (w : Word) (s : State) : (s.accept w).fault = s.fault := rfl
@[simp] theorem accept_cause (w : Word) (s : State) : (s.accept w).cause = s.cause := rfl
@[simp] theorem accept_valid (w : Word) (s : State) : (s.accept w).valid = s.valid := rfl
@[simp] theorem accept_t (w : Word) (s : State) : (s.accept w).t = s.t := rfl
@[simp] theorem accept_host (w : Word) (s : State) : (s.accept w).host = s.host := rfl
@[simp] theorem accept_reply (w : Word) (s : State) : (s.accept w).reply = s.reply := rfl
@[simp] theorem accept_delay (w : Word) (s : State) : (s.accept w).delay = s.nextLatency := rfl
@[simp] theorem accept_latencies (w : Word) (s : State) : (s.accept w).latencies = s.latencies.tail := rfl
@[simp] theorem accept_draws (w : Word) (s : State) : (s.accept w).draws = s.draws + 1 := rfl

/-! ## finish -/

@[simp] theorem finish_buf (s : State) : (s.finish).buf = s.buf := rfl
@[simp] theorem finish_acc (s : State) : (s.finish).acc = s.acc := rfl
@[simp] theorem finish_chk (s : State) : (s.finish).chk = s.chk := rfl
@[simp] theorem finish_flg (s : State) : (s.finish).flg = s.flg := rfl
@[simp] theorem finish_plen (s : State) : (s.finish).plen = s.plen := rfl
@[simp] theorem finish_txlen (s : State) : (s.finish).txlen = s.txlen := rfl
@[simp] theorem finish_finfo (s : State) : (s.finish).finfo = s.finfo := rfl
@[simp] theorem finish_cmdr (s : State) : (s.finish).cmdr = s.cmdr := rfl
@[simp] theorem finish_busy (s : State) : (s.finish).busy = false := rfl
@[simp] theorem finish_fault (s : State) : (s.finish).fault = s.fault := rfl
@[simp] theorem finish_cause (s : State) : (s.finish).cause = s.cause := rfl
@[simp] theorem finish_valid (s : State) : (s.finish).valid = s.valid := rfl
@[simp] theorem finish_t (s : State) : (s.finish).t = s.t := rfl
@[simp] theorem finish_host (s : State) : (s.finish).host = s.host := rfl
@[simp] theorem finish_reply (s : State) : (s.finish).reply = s.reply := rfl
@[simp] theorem finish_delay (s : State) : (s.finish).delay = 0 := rfl
@[simp] theorem finish_latencies (s : State) : (s.finish).latencies = s.latencies := rfl
@[simp] theorem finish_draws (s : State) : (s.finish).draws = s.draws := rfl

/-! ## withHost -/

@[simp] theorem withHost_buf (rest : List HostItem) (s : State) : (s.withHost rest).buf = s.buf := rfl
@[simp] theorem withHost_acc (rest : List HostItem) (s : State) : (s.withHost rest).acc = s.acc := rfl
@[simp] theorem withHost_chk (rest : List HostItem) (s : State) : (s.withHost rest).chk = s.chk := rfl
@[simp] theorem withHost_flg (rest : List HostItem) (s : State) : (s.withHost rest).flg = s.flg := rfl
@[simp] theorem withHost_plen (rest : List HostItem) (s : State) : (s.withHost rest).plen = s.plen := rfl
@[simp] theorem withHost_txlen (rest : List HostItem) (s : State) : (s.withHost rest).txlen = s.txlen := rfl
@[simp] theorem withHost_finfo (rest : List HostItem) (s : State) : (s.withHost rest).finfo = s.finfo := rfl
@[simp] theorem withHost_cmdr (rest : List HostItem) (s : State) : (s.withHost rest).cmdr = s.cmdr := rfl
@[simp] theorem withHost_busy (rest : List HostItem) (s : State) : (s.withHost rest).busy = s.busy := rfl
@[simp] theorem withHost_fault (rest : List HostItem) (s : State) : (s.withHost rest).fault = s.fault := rfl
@[simp] theorem withHost_cause (rest : List HostItem) (s : State) : (s.withHost rest).cause = s.cause := rfl
@[simp] theorem withHost_valid (rest : List HostItem) (s : State) : (s.withHost rest).valid = s.valid := rfl
@[simp] theorem withHost_t (rest : List HostItem) (s : State) : (s.withHost rest).t = s.t := rfl
@[simp] theorem withHost_host (rest : List HostItem) (s : State) : (s.withHost rest).host = rest := rfl
@[simp] theorem withHost_reply (rest : List HostItem) (s : State) : (s.withHost rest).reply = s.reply := rfl
@[simp] theorem withHost_delay (rest : List HostItem) (s : State) : (s.withHost rest).delay = s.delay := rfl
@[simp] theorem withHost_latencies (rest : List HostItem) (s : State) : (s.withHost rest).latencies = s.latencies := rfl
@[simp] theorem withHost_draws (rest : List HostItem) (s : State) : (s.withHost rest).draws = s.draws := rfl

/-! ## storeByte -/

@[simp] theorem storeByte_buf (a : Nat) (b : Byte) (s : State) : (s.storeByte a b).buf = Memory.write s.buf a b := rfl
@[simp] theorem storeByte_acc (a : Nat) (b : Byte) (s : State) : (s.storeByte a b).acc = s.acc := rfl
@[simp] theorem storeByte_chk (a : Nat) (b : Byte) (s : State) : (s.storeByte a b).chk = s.chk := rfl
@[simp] theorem storeByte_flg (a : Nat) (b : Byte) (s : State) : (s.storeByte a b).flg = s.flg := rfl
@[simp] theorem storeByte_plen (a : Nat) (b : Byte) (s : State) : (s.storeByte a b).plen = s.plen := rfl
@[simp] theorem storeByte_txlen (a : Nat) (b : Byte) (s : State) : (s.storeByte a b).txlen = s.txlen := rfl
@[simp] theorem storeByte_finfo (a : Nat) (b : Byte) (s : State) : (s.storeByte a b).finfo = s.finfo := rfl
@[simp] theorem storeByte_cmdr (a : Nat) (b : Byte) (s : State) : (s.storeByte a b).cmdr = s.cmdr := rfl
@[simp] theorem storeByte_busy (a : Nat) (b : Byte) (s : State) : (s.storeByte a b).busy = s.busy := rfl
@[simp] theorem storeByte_fault (a : Nat) (b : Byte) (s : State) : (s.storeByte a b).fault = s.fault := rfl
@[simp] theorem storeByte_cause (a : Nat) (b : Byte) (s : State) : (s.storeByte a b).cause = s.cause := rfl
@[simp] theorem storeByte_valid (a : Nat) (b : Byte) (s : State) : (s.storeByte a b).valid = s.valid := rfl
@[simp] theorem storeByte_t (a : Nat) (b : Byte) (s : State) : (s.storeByte a b).t = s.t := rfl
@[simp] theorem storeByte_host (a : Nat) (b : Byte) (s : State) : (s.storeByte a b).host = s.host := rfl
@[simp] theorem storeByte_reply (a : Nat) (b : Byte) (s : State) : (s.storeByte a b).reply = s.reply := rfl
@[simp] theorem storeByte_delay (a : Nat) (b : Byte) (s : State) : (s.storeByte a b).delay = s.delay := rfl
@[simp] theorem storeByte_latencies (a : Nat) (b : Byte) (s : State) : (s.storeByte a b).latencies = s.latencies := rfl
@[simp] theorem storeByte_draws (a : Nat) (b : Byte) (s : State) : (s.storeByte a b).draws = s.draws := rfl

/-! ## passTurn -/

@[simp] theorem passTurn_buf (s : State) : (s.passTurn).buf = s.buf := rfl
@[simp] theorem passTurn_acc (s : State) : (s.passTurn).acc = s.acc := rfl
@[simp] theorem passTurn_chk (s : State) : (s.passTurn).chk = s.chk := rfl
@[simp] theorem passTurn_flg (s : State) : (s.passTurn).flg = s.flg := rfl
@[simp] theorem passTurn_plen (s : State) : (s.passTurn).plen = s.plen := rfl
@[simp] theorem passTurn_txlen (s : State) : (s.passTurn).txlen = s.txlen := rfl
@[simp] theorem passTurn_finfo (s : State) : (s.passTurn).finfo = s.finfo := rfl
@[simp] theorem passTurn_cmdr (s : State) : (s.passTurn).cmdr = s.cmdr := rfl
@[simp] theorem passTurn_busy (s : State) : (s.passTurn).busy = s.busy := rfl
@[simp] theorem passTurn_fault (s : State) : (s.passTurn).fault = s.fault := rfl
@[simp] theorem passTurn_cause (s : State) : (s.passTurn).cause = s.cause := rfl
@[simp] theorem passTurn_valid (s : State) : (s.passTurn).valid = s.valid := rfl
@[simp] theorem passTurn_t (s : State) : (s.passTurn).t = s.t := rfl
@[simp] theorem passTurn_host (s : State) : (s.passTurn).host = s.host := rfl
@[simp] theorem passTurn_reply (s : State) : (s.passTurn).reply = s.reply := rfl
@[simp] theorem passTurn_delay (s : State) : (s.passTurn).delay = s.delay - 1 := rfl
@[simp] theorem passTurn_latencies (s : State) : (s.passTurn).latencies = s.latencies := rfl
@[simp] theorem passTurn_draws (s : State) : (s.passTurn).draws = s.draws := rfl

/-! ## inFlight -/

@[simp] theorem inFlight_buf (w : Word) (s : State) : (s.inFlight w).buf = s.buf := rfl
@[simp] theorem inFlight_acc (w : Word) (s : State) : (s.inFlight w).acc = s.acc := rfl
@[simp] theorem inFlight_chk (w : Word) (s : State) : (s.inFlight w).chk = s.chk := rfl
@[simp] theorem inFlight_flg (w : Word) (s : State) : (s.inFlight w).flg = s.flg := rfl
@[simp] theorem inFlight_plen (w : Word) (s : State) : (s.inFlight w).plen = s.plen := rfl
@[simp] theorem inFlight_txlen (w : Word) (s : State) : (s.inFlight w).txlen = s.txlen := rfl
@[simp] theorem inFlight_finfo (w : Word) (s : State) : (s.inFlight w).finfo = 0#32 := rfl
@[simp] theorem inFlight_cmdr (w : Word) (s : State) : (s.inFlight w).cmdr = w := rfl
@[simp] theorem inFlight_busy (w : Word) (s : State) : (s.inFlight w).busy = true := rfl
@[simp] theorem inFlight_fault (w : Word) (s : State) : (s.inFlight w).fault = false := rfl
@[simp] theorem inFlight_cause (w : Word) (s : State) : (s.inFlight w).cause = 0#3 := rfl
@[simp] theorem inFlight_valid (w : Word) (s : State) : (s.inFlight w).valid = s.valid := rfl
@[simp] theorem inFlight_t (w : Word) (s : State) : (s.inFlight w).t = s.t := rfl
@[simp] theorem inFlight_host (w : Word) (s : State) : (s.inFlight w).host = s.host := rfl
@[simp] theorem inFlight_reply (w : Word) (s : State) : (s.inFlight w).reply = s.reply := rfl
@[simp] theorem inFlight_delay (w : Word) (s : State) : (s.inFlight w).delay = 0 := rfl
@[simp] theorem inFlight_latencies (w : Word) (s : State) : (s.inFlight w).latencies = s.latencies := rfl
@[simp] theorem inFlight_draws (w : Word) (s : State) : (s.inFlight w).draws = s.draws := rfl

end Sys2Proof.Machine.State
end

