-- ==== Sys2Proof/Laws/Ops.lean ====
section
/-! SUPPORT. What the shared operations can do, said once each: the phase, fault entry, the operand check, the gate. -/

namespace Sys2Proof.Machine

/-! ## The phase (R20) -/

theorem phase_idle_iff (s : State) : s.phase = .idle ↔ s.fault = false ∧ s.busy = false := by
  unfold State.phase; cases s.fault <;> cases s.busy <;> simp

theorem phase_busy_iff (s : State) : s.phase = .busy ↔ s.fault = false ∧ s.busy = true := by
  unfold State.phase; cases s.fault <;> cases s.busy <;> simp

theorem phase_faulted_iff (s : State) : s.phase = .faulted ↔ s.fault = true := by
  unfold State.phase; cases s.fault <;> cases s.busy <;> simp

theorem phase_congr {s t : State} (hf : t.fault = s.fault) (hb : t.busy = s.busy) : t.phase = s.phase := by
  unfold State.phase; rw [hf, hb]

@[simp] theorem answer_phase (r : Option Reply) (s : State) : (s.answer r).phase = s.phase := rfl
@[simp] theorem withHost_phase (rest : List HostItem) (s : State) : (s.withHost rest).phase = s.phase := rfl
@[simp] theorem storeByte_phase (a : Nat) (b : Byte) (s : State) : (s.storeByte a b).phase = s.phase := rfl
@[simp] theorem passTurn_phase (s : State) : s.passTurn.phase = s.phase := rfl

@[simp] theorem raiseFault_phase (c : FaultCause) (w : Word) (s : State) : (raiseFault c w s).phase = .faulted := by
  cases c <;> rfl

theorem engineTurn_iff (s : State) : engineTurn s = true ↔ s.phase = .busy ∧ s.delay = 0 := by
  simp [engineTurn]

/-! ## Taking a fault (R188) -/

/-- Fault entry: the precise causes touch the fault state alone, `BusyFault` scrambles first (R186). -/
theorem raiseFault_cases (c : FaultCause) (w : Word) (s : State) :
    (c ≠ .busyFault ∧ raiseFault c w s = s.enterFault c w) ∨
    (c = .busyFault ∧ raiseFault c w s = s.scramble.enterFault .busyFault w) := by
  cases c <;> simp [raiseFault]

theorem raiseFault_precise {c : FaultCause} (h : c ≠ .busyFault) (w : Word) (s : State) :
    raiseFault c w s = s.enterFault c w := by
  rcases raiseFault_cases c w s with ⟨_, e⟩ | ⟨e, _⟩
  · exact e
  · exact absurd e h

@[simp] theorem raiseFault_fault (c : FaultCause) (w : Word) (s : State) : (raiseFault c w s).fault = true := by
  cases c <;> rfl

@[simp] theorem raiseFault_busy (c : FaultCause) (w : Word) (s : State) : (raiseFault c w s).busy = false := by
  cases c <;> rfl

@[simp] theorem raiseFault_cause (c : FaultCause) (w : Word) (s : State) : (raiseFault c w s).cause = c.code := by
  cases c <;> rfl

@[simp] theorem raiseFault_finfo (c : FaultCause) (w : Word) (s : State) : (raiseFault c w s).finfo = w := by
  cases c <;> rfl

@[simp] theorem raiseFault_cmdr (c : FaultCause) (w : Word) (s : State) : (raiseFault c w s).cmdr = s.cmdr := by
  cases c <;> rfl

@[simp] theorem raiseFault_delay (c : FaultCause) (w : Word) (s : State) : (raiseFault c w s).delay = 0 := by
  cases c <;> rfl

@[simp] theorem raiseFault_host (c : FaultCause) (w : Word) (s : State) : (raiseFault c w s).host = s.host := by
  cases c <;> rfl

/-! ## The operand check (R54) -/

/-- Every operand fault is precise. -/
theorem operandFault_precise {P : Config} {i : Instr} {c : FaultCause} (h : operandFault P i = some c) :
    c ≠ .busyFault := by
  cases i <;> simp only [operandFault, reduceCtorEq] at h
  all_goals
    split at h
    · injection h with h; subst h; decide
    · cases h

theorem checked_of_pass {i : Instr} {s effect : State} (h : operandFault pcodec i = none) :
    checked i s effect = .next effect := by
  simp [checked, h]

theorem checked_of_fault {i : Instr} {s effect : State} {c : FaultCause} (h : operandFault pcodec i = some c) :
    checked i s effect = .next (s.enterFault c (encode i)) := by
  simp [checked, h, raiseFault_precise (operandFault_precise h)]

theorem checked_answers (i : Instr) (s effect : State) : ∃ t, checked i s effect = .next t := by
  cases h : operandFault pcodec i with
  | none => exact ⟨_, checked_of_pass h⟩
  | some c => exact ⟨_, checked_of_fault h⟩

theorem operandFault_encode (n : Nat) (isFin : Bool) :
    operandFault pcodec (.encode n isFin) = none ↔ n ≤ 995 := by
  simp [operandFault]

theorem operandFault_decode (length : Nat) :
    operandFault pcodec (.decode length) = none ↔ 5 ≤ length ∧ length ≤ 1000 := by
  simp [operandFault]

theorem execEncode_of_pass {n : Nat} (h : n ≤ 995) (isFin : Bool) (s : State) :
    execEncode n isFin s = .next (encodePacket pcodec n isFin s) :=
  checked_of_pass ((operandFault_encode n isFin).mpr h)

theorem execDecode_of_pass {length : Nat} (h : 5 ≤ length ∧ length ≤ 1000) (s : State) :
    execDecode length s = .next (decodePacket pcodec length s) :=
  checked_of_pass ((operandFault_decode length).mpr h)

/-- A command always answers a next state. -/
theorem exec_answers (i : Instr) (s : State) : ∃ t, exec i s = .next t := by
  cases i with
  | encode n isFin => exact checked_answers ..
  | decode length => exact checked_answers ..
  | _ => exact ⟨_, rfl⟩

/-! ## The host's steps by phase (R51 to R54, R70) -/

theorem gate_idle {s : State} (h : s.phase = .idle) (b : Bool) : gate b s = .opened := by
  simp [gate, h]

theorem gate_faulted {s : State} (h : s.phase = .faulted) (b : Bool) : gate b s = .frozen := by
  simp [gate, h]

theorem gate_busy {s : State} (h : s.phase = .busy) : gate false s = .busy := by
  simp [gate, h]

theorem gate_statusRead (s : State) : gate true s ≠ .busy := by
  unfold gate; cases s.phase <;> simp

/-- A read of STATUS never faults (R53). -/
theorem regRead_status (s : State) : regRead 1#3 s = s.answer (some (.word (statusWord s))) := by
  have hv : regValue 1#3 s = statusWord s := rfl
  have hb : ((1#3 : RegNum) == 1#3) = true := rfl
  have := gate_statusRead s
  unfold regRead
  rw [hb, hv]
  split <;> first | rfl | contradiction

theorem regRead_held {s : State} (r : RegNum) (h : s.phase ≠ .busy) :
    regRead r s = s.answer (some (.word (regValue r s))) := by
  unfold regRead gate
  cases hp : s.phase <;> first | rfl | exact absurd hp h

theorem regRead_busy {s : State} {r : RegNum} (h : s.phase = .busy) (hr : r ≠ 1#3) :
    regRead r s = (raiseFault .busyFault s.cmdr s).answerUnspecifiedWord := by
  have hb : (r == 1#3) = false := by simpa using hr
  unfold regRead
  rw [hb, gate_busy h]

theorem regWrite_idle {s : State} (h : s.phase = .idle) (w : Word) :
    regWrite 0#3 w s = (issue w s).answer none := by
  simp [regWrite, gate_idle h]

theorem regWrite_ignored {s : State} {r : RegNum} (h : s.phase = .idle) (hr : r ≠ 0#3) (w : Word) :
    regWrite r w s = s.answer none := by
  simp [regWrite, gate_idle h, hr]

theorem regWrite_faulted {s : State} (h : s.phase = .faulted) (r : RegNum) (w : Word) :
    regWrite r w s = s.answer none := by
  simp [regWrite, gate_faulted h]

theorem regWrite_busy {s : State} (h : s.phase = .busy) (r : RegNum) (w : Word) :
    regWrite r w s = (raiseFault .busyFault s.cmdr s).answer none := by
  simp [regWrite, gate_busy h]

theorem bufRead_idle {s : State} (h : s.phase = .idle) (a : BufAddr) :
    bufRead a s = if 1000 ≤ a.toNat then (s.enterFault .bufferRange (a.setWidth 32)).answerUnspecifiedByte
      else s.answer (some (.byte (Memory.read s.buf a.toNat))) := by
  simp [bufRead, gate_idle h, raiseFault]

theorem bufRead_faulted {s : State} (h : s.phase = .faulted) (a : BufAddr) :
    bufRead a s = if 1000 ≤ a.toNat then s.answerUnspecifiedByte
      else s.answer (some (.byte (Memory.read s.buf a.toNat))) := by
  simp [bufRead, gate_faulted h]

theorem bufRead_busy {s : State} (h : s.phase = .busy) (a : BufAddr) :
    bufRead a s = (raiseFault .busyFault s.cmdr s).answerUnspecifiedByte := by
  simp [bufRead, gate_busy h]

theorem bufWrite_idle {s : State} (h : s.phase = .idle) (a : BufAddr) (b : Byte) :
    bufWrite a b s = if 1000 ≤ a.toNat then (s.enterFault .bufferRange (a.setWidth 32)).answer none
      else (s.storeByte a.toNat b).answer none := by
  simp [bufWrite, gate_idle h, raiseFault]

theorem bufWrite_faulted {s : State} (h : s.phase = .faulted) (a : BufAddr) (b : Byte) :
    bufWrite a b s = s.answer none := by
  simp [bufWrite, gate_faulted h]

theorem bufWrite_busy {s : State} (h : s.phase = .busy) (a : BufAddr) (b : Byte) :
    bufWrite a b s = (raiseFault .busyFault s.cmdr s).answer none := by
  simp [bufWrite, gate_busy h]

/-- The issue of a word (R54): a precise fault that names the word, or acceptance. -/
theorem issue_cases (w : Word) (s : State) :
    ((∃ e, decode w = .error e) ∧ issue w s = s.enterFault .illegalCommand w) ∨
    (∃ i c, decode w = .ok i ∧ operandFault pcodec i = some c ∧ issue w s = s.enterFault c w) ∨
    (∃ i, decode w = .ok i ∧ operandFault pcodec i = none ∧ issue w s = s.accept w) := by
  unfold issue
  split
  · rename_i e he
    exact .inl ⟨⟨e, he⟩, rfl⟩
  · rename_i i hi
    split
    · rename_i c hc
      exact .inr (.inl ⟨i, c, hi, hc, raiseFault_precise (operandFault_precise hc) w s⟩)
    · rename_i hn
      exact .inr (.inr ⟨i, hi, hn, rfl⟩)

/-- In phase BUSY a host step is a read of STATUS, a reset or a `BusyFault` (R186). -/
theorem hostStep_busy_cases {s : State} (h : HostStep) (hp : s.phase = .busy) :
    (h = .regRead 1#3 ∧ hostStep h s = s.answer (some (.word (statusWord s)))) ∨
    (h = .reset ∧ hostStep h s = resetStep s) ∨
    (h ≠ .regRead 1#3 ∧ h ≠ .reset ∧
      (hostStep h s = (raiseFault .busyFault s.cmdr s).answer none ∨
        hostStep h s = (raiseFault .busyFault s.cmdr s).answerUnspecifiedByte ∨
        hostStep h s = (raiseFault .busyFault s.cmdr s).answerUnspecifiedWord)) := by
  cases h with
  | reset => exact .inr (.inl ⟨rfl, rfl⟩)
  | regRead r =>
    by_cases hr : r = 1#3
    · subst hr; exact .inl ⟨rfl, regRead_status s⟩
    · exact .inr (.inr ⟨by simpa using hr, by simp, .inr (.inr (regRead_busy hp hr))⟩)
  | regWrite r w => exact .inr (.inr ⟨by simp, by simp, .inl (regWrite_busy hp r w)⟩)
  | bufRead a => exact .inr (.inr ⟨by simp, by simp, .inr (.inl (bufRead_busy hp a))⟩)
  | bufWrite a b => exact .inr (.inr ⟨by simp, by simp, .inl (bufWrite_busy hp a b)⟩)

/-- In phase FAULTED a host step but `Reset` only answers (R189). -/
theorem hostStep_faulted_cases {s : State} (h : HostStep) (hp : s.phase = .faulted) :
    (h = .reset ∧ hostStep h s = resetStep s) ∨
    (h ≠ .reset ∧ ((∃ r, hostStep h s = s.answer r) ∨ hostStep h s = s.answerUnspecifiedByte)) := by
  cases h with
  | reset => exact .inl ⟨rfl, rfl⟩
  | regRead r => exact .inr ⟨by simp, .inl ⟨_, regRead_held r (by simp [hp])⟩⟩
  | regWrite r w => exact .inr ⟨by simp, .inl ⟨_, regWrite_faulted hp r w⟩⟩
  | bufRead a =>
    refine .inr ⟨by simp, ?_⟩
    simp only [hostStep, bufRead_faulted hp]
    split
    · exact .inr rfl
    · exact .inl ⟨_, rfl⟩
  | bufWrite a b => exact .inr ⟨by simp, .inl ⟨_, bufWrite_faulted hp a b⟩⟩

/-- In phase IDLE a host step answers, resets, takes a precise fault, accepts a command or writes one byte. -/
theorem hostStep_idle_cases {s : State} (h : HostStep) (hp : s.phase = .idle) :
    (h = .reset ∧ hostStep h s = resetStep s) ∨
    (h ≠ .reset ∧ ∃ r, hostStep h s = s.answer r) ∨
    (∃ a, h = .bufRead a ∧ 1000 ≤ a.toNat ∧
      hostStep h s = (s.enterFault .bufferRange (a.setWidth 32)).answerUnspecifiedByte) ∨
    (∃ a b, h = .bufWrite a b ∧ 1000 ≤ a.toNat ∧
      hostStep h s = (s.enterFault .bufferRange (a.setWidth 32)).answer none) ∨
    (∃ a b, h = .bufWrite a b ∧ a.toNat < 1000 ∧
      hostStep h s = (s.storeByte a.toNat b).answer none) ∨
    (∃ w, h = .regWrite 0#3 w ∧ hostStep h s = (issue w s).answer none) := by
  cases h with
  | reset => exact .inl ⟨rfl, rfl⟩
  | regRead r => exact .inr (.inl ⟨by simp, _, regRead_held r (by simp [hp])⟩)
  | regWrite r w =>
    by_cases hr : r = 0#3
    · subst hr; exact .inr (.inr (.inr (.inr (.inr ⟨w, rfl, regWrite_idle hp w⟩))))
    · exact .inr (.inl ⟨by simp, _, regWrite_ignored hp hr w⟩)
  | bufRead a =>
    by_cases ha : 1000 ≤ a.toNat
    · exact .inr (.inr (.inl ⟨a, rfl, ha, by simp [hostStep, bufRead_idle hp, ha]⟩))
    · exact .inr (.inl ⟨by simp, some (.byte (Memory.read s.buf a.toNat)),
        by simp only [hostStep, bufRead_idle hp, if_neg ha]⟩)
  | bufWrite a b =>
    by_cases ha : 1000 ≤ a.toNat
    · exact .inr (.inr (.inr (.inl ⟨a, b, rfl, ha, by simp [hostStep, bufWrite_idle hp, ha]⟩)))
    · exact .inr (.inr (.inr (.inr (.inl ⟨a, b, rfl, by omega, by simp [hostStep, bufWrite_idle hp, ha]⟩))))

end Sys2Proof.Machine
end

