-- ==== Sys2Proof/Laws/PerInstr.lean ====
section
/-! SUPPORT. One lemma per command: its encoding is covered by a row of R88 that reads the command back (R81 to R88). -/

namespace Sys2Proof.Laws.EncodesItsRow

/-- The encoding of a well-formed command is covered by a row of the opcode map, and that row reads the command from it. -/
def Statement (i : Instr) : Prop :=
  i.wellFormed = true → ∃ r ∈ rows, encode i &&& r.mask = r.pattern ∧ r.read (encode i) = i

theorem ckclr : Statement .ckclr := fun _ => ⟨rows[0], by simp [rows], by decide, rfl⟩

theorem cksum : Statement .cksum := fun _ => ⟨rows[1], by simp [rows], by decide, rfl⟩

theorem ckput : Statement .ckput := fun _ => ⟨rows[2], by simp [rows], by decide, rfl⟩

theorem ckget : Statement .ckget := fun _ => ⟨rows[3], by simp [rows], by decide, rfl⟩

theorem encode_values : ∀ (n : Fin 1024) (b : Bool),
    Sys2Proof.encode (.encode n b) &&& rows[4].mask = rows[4].pattern ∧
      rows[4].read (Sys2Proof.encode (.encode n b)) = .encode n b := by
  decide +kernel

theorem encode (n : Nat) (isFin : Bool) : Statement (.encode n isFin) := fun h =>
  ⟨rows[4], by simp [rows], encode_values ⟨n, by simpa [Instr.wellFormed] using h⟩ isFin⟩

theorem decode_values : ∀ n : Fin 1024,
    Sys2Proof.encode (.decode n) &&& rows[5].mask = rows[5].pattern ∧
      rows[5].read (Sys2Proof.encode (.decode n)) = .decode n := by
  decide +kernel

theorem decode (length : Nat) : Statement (.decode length) := fun h =>
  ⟨rows[5], by simp [rows], decode_values ⟨length, by simpa [Instr.wellFormed] using h⟩⟩

theorem verify : Statement .verify := fun _ => ⟨rows[6], by simp [rows], by decide, rfl⟩

theorem issetAck_values : ∀ f : Byte,
    Sys2Proof.encode (.issetAck f) &&& rows[7].mask = rows[7].pattern ∧
      rows[7].read (Sys2Proof.encode (.issetAck f)) = .issetAck f := by
  decide +kernel

theorem issetAck (f : Byte) : Statement (.issetAck f) := fun _ => ⟨rows[7], by simp [rows], issetAck_values f⟩

theorem issetFin_values : ∀ f : Byte,
    Sys2Proof.encode (.issetFin f) &&& rows[8].mask = rows[8].pattern ∧
      rows[8].read (Sys2Proof.encode (.issetFin f)) = .issetFin f := by
  decide +kernel

theorem issetFin (f : Byte) : Statement (.issetFin f) := fun _ => ⟨rows[8], by simp [rows], issetFin_values f⟩

theorem mkack_values : ∀ b : Bool,
    Sys2Proof.encode (.mkack b) &&& rows[9].mask = rows[9].pattern ∧
      rows[9].read (Sys2Proof.encode (.mkack b)) = .mkack b := by
  decide +kernel

theorem mkack (positive : Bool) : Statement (.mkack positive) := fun _ => ⟨rows[9], by simp [rows], mkack_values positive⟩

end Sys2Proof.Laws.EncodesItsRow
end

