-- ==== Sys2Proof/Laws/Step.lean ====
section
/-! SUPPORT. What one step of the whole machine can do, said once. -/

namespace Sys2Proof.Machine

/-- A step that has a next state is the completion of the command in CMDR, or the host's turn (R8, R96). -/
theorem step_cases {s t : State} (h : step s = .next t) :
    (engineTurn s = true ∧ ∃ i u, decode s.cmdr = .ok i ∧ exec i s = .next u ∧ t = u.finish) ∨
    (engineTurn s = false ∧ t = hostMove s) := by
  unfold step at h
  cases he : engineTurn s with
  | false =>
    rw [he] at h
    exact .inr ⟨rfl, by simpa using h.symm⟩
  | true =>
    rw [he, if_pos rfl] at h
    unfold complete at h
    split at h
    · rename_i i hi
      obtain ⟨u, hu⟩ := exec_answers i s
      rw [hu] at h
      exact .inl ⟨rfl, i, u, hi, hu, by simpa [finishOutcome] using h.symm⟩
    · cases h

theorem step_host {s : State} (h : engineTurn s = false) : step s = .next (hostMove s) := by
  simp [step, h]

theorem step_complete {s : State} {i : Instr} (h : engineTurn s = true) (hi : decode s.cmdr = .ok i) :
    step s = finishOutcome (exec i s) := by
  simp [step, h, complete, hi]

/-! ## Runs of the host's interface -/

theorem run_zero (s : State) : Host.Core.run core 0 s = .next s := rfl

/-- One step, and then the rest of the run. -/
theorem run_next {s t : State} (k : Nat) (h : step s = .next t) :
    Host.Core.run core (k + 1) s = Host.Core.run core k t := by
  have hc : core.step s = .next t := h
  exact (Host.Core.run.eq_2 core s k).trans (by rw [hc])

/-- The host's turn: it idles, polls in a `WAIT`, ends a `WAIT`, or performs a host step (R94). -/
theorem hostMove_cases (s : State) :
    (s.host = [] ∧ hostMove s = s.passTurn) ∨
    (∃ rest, s.host = .wait :: rest ∧ s.busy = true ∧
      hostMove s = s.passTurn.answer (some (.word (statusWord s)))) ∨
    (∃ rest, s.host = .wait :: rest ∧ s.busy = false ∧
      hostMove s = (s.passTurn.answer (some (.word (statusWord s)))).withHost rest) ∨
    (∃ h rest, s.host = .act h :: rest ∧ hostMove s = hostStep h (s.passTurn.withHost rest)) := by
  have hb : ∀ x : State, (statusWord x).getLsbD 0 = x.busy := by
    intro x; cases hx : x.busy <;> simp [statusWord, hx]
  unfold hostMove
  split
  · rename_i h
    exact .inl ⟨h, rfl⟩
  · rename_i rest h
    have hs : statusWord s.passTurn = statusWord s := rfl
    cases hbusy : s.busy with
    | true =>
      refine .inr (.inl ⟨rest, h, rfl, ?_⟩)
      simp only [waitStep, regRead_status, hs, hb, hbusy, if_true]
    | false =>
      refine .inr (.inr (.inl ⟨rest, h, rfl, ?_⟩))
      simp only [waitStep, regRead_status, hs, hb, hbusy, Bool.false_eq_true, if_false]
  · rename_i h rest hh
    exact .inr (.inr (.inr ⟨h, rest, hh, rfl⟩))

end Sys2Proof.Machine
end

