-- ==== Sys2Proof/Tests/Slice0.lean ====
section
/-! SUPPORT. Tests: expected values come from the spec's tables and vectors (spec/95_test_vectors.md, V<n>), never from the
model; then, for each obligation with hypotheses, a witness that meets them at the bounds of their ranges. -/

namespace Sys2Proof.Tests

open Sys2Proof.Machine Sys2Proof.Says

/-! ## Helpers -/

/-- The outcome is a next state that satisfies `p`. -/
def nextIs (p : State → Bool) : Host.Outcome State Fault Refusal → Bool
  | .next s => p s
  | .fault _ => false
  | .refused _ => false

/-- The first `n` bytes of BUF are these. -/
def startsWith (bytes : List Byte) (s : State) : Bool :=
  (List.range bytes.length).map (fun k => Memory.read s.buf k) == bytes

/-- After reset, with these bytes in BUF from address 0. -/
def loaded (bytes : List Byte) : State :=
  { State.reset with
    buf := (List.range bytes.length).foldl (fun m k => Memory.write m k (bytes.getD k 0#8)) [] }

/-- The payload "hello" behind a header that holds something else. -/
def dirtyHello : State := loaded [0xAA#8, 0xAA#8, 0xAA#8, 0xAA#8, 0xAA#8, 0x68#8, 0x65#8, 0x6C#8, 0x6C#8, 0x6F#8, 0xAA#8]

/-- The packet of V14. -/
def helloPacket : State := loaded [0x0E#8, 0x9F#8, 0x21#8, 0x86#8, 0x02#8, 0x68#8, 0x65#8, 0x6C#8, 0x6C#8, 0x6F#8]

/-- The packet of V13. -/
def emptyPacket : State := loaded [0x06#8, 0x0B#8, 0x17#8, 0x80#8, 0x00#8]

/-- A `VERIFY` in flight for three more turns. -/
def verifying : State := { State.reset.inFlight 0x0000000A#32 with delay := 3 }

/-- The state after V50. -/
def capacityFaulted : State := hostStep (.regWrite 0#3 0x03E40008#32) State.reset

/-! ## WellFormed: an ill-formed term for each check (R81, R87) -/

theorem test_encode_operand_too_wide : (Instr.encode 1024 true).wellFormed = false := by decide

theorem test_decode_operand_too_wide : (Instr.decode 1024).wellFormed = false := by decide

theorem test_widest_operands_fit : (Instr.encode 1023 false).wellFormed = true ∧ (Instr.decode 1023).wellFormed = true := by
  decide

/-! ## Decoding: words written out from the formats R82 to R86 -/

theorem test_decode_ckclr : decode 0b000000_0000000000_00000000_0000_0001#32 = .ok .ckclr := by decide

theorem test_decode_cksum : decode 0b000000_0000000000_00000000_0000_0010#32 = .ok .cksum := by decide

theorem test_decode_ckput : decode 0b000000_0000000000_00000000_0000_0011#32 = .ok .ckput := by decide

theorem test_decode_ckget : decode 0b000000_0000000000_00000000_0000_0100#32 = .ok .ckget := by decide

/-- V14's word 0x00050108, and the widest operand. -/
theorem test_decode_encode : decode 0b000000_0000000101_0000000_1_0000_1000#32 = .ok (.encode 5 true) ∧
    decode 0b000000_1111111111_0000000_0_0000_1000#32 = .ok (.encode 1023 false) := by decide

/-- V28's word 0x03E80009. -/
theorem test_decode_decode : decode 0b000000_1111101000_00000000_0000_1001#32 = .ok (.decode 1000) := by decide

theorem test_decode_verify : decode 0b000000_0000000000_00000000_0000_1010#32 = .ok .verify := by decide

/-- V34's word 0x0001FE0B. -/
theorem test_decode_issetAck : decode 0b000000_00_00000001_11111110_0000_1011#32 = .ok (.issetAck 0xFE#8) := by decide

/-- V40's word 0x0002FD0B. -/
theorem test_decode_issetFin : decode 0b000000_00_00000010_11111101_0000_1011#32 = .ok (.issetFin 0xFD#8) := by decide

/-- V42's and V43's words. -/
theorem test_decode_mkack : decode 0b000000_0000000000_0000000_1_0000_1100#32 = .ok (.mkack true) ∧
    decode 0b000000_0000000000_0000000_0_0000_1100#32 = .ok (.mkack false) := by decide

/-- V52 to V59 and V70 to V74: every one is illegal; V73 although its operand is out of range too. -/
theorem test_decode_rejects : [0x00000000#32, 0x00000005#32, 0x00000010#32, 0x04000001#32, 0x00010001#32, 0x0000000B#32,
    0x0003000B#32, 0x0100000B#32, 0x0000020C#32, 0x0001010C#32, 0x00000208#32, 0x03FF0208#32, 0x00000109#32].map
      (fun w => (decode w).toOption) = List.replicate 13 none := by decide

/-- Encodings the spec's vectors give (V14, V15, V28, V31, V38, V42). -/
theorem test_encode : [encode (.encode 5 true), encode (.encode 995 false), encode (.decode 1000), encode (.issetAck 0x01#8),
    encode (.issetFin 0x02#8), encode (.mkack true)] =
      [0x00050108#32, 0x03E30008#32, 0x03E80009#32, 0x0001010B#32, 0x0002020B#32, 0x0000010C#32] := by decide

/-- No two rows of the map agree on every bit both fix, so no word matches two (R88). -/
theorem test_rows_disjoint :
    rows.Pairwise (fun r r' => (r.mask &&& r'.mask) &&& (r.pattern ^^^ r'.pattern) ≠ 0#32) := by decide

theorem test_decodeTableWord : decodeTableWord 32 0x0002FF0B = some (.issetFin 0xFF#8) ∧ decodeTableWord 32 0 = none := by
  decide

/-- R92. -/
theorem test_text : (Instr.encode 5 true).text = "ENCODE 5, 1" ∧ (Instr.issetAck 0x0F#8).text = "ISSET.ACK 0x0F" := by
  decide +kernel

/-! ## The checksum function -/

/-- V1, V2, V4, V5. -/
theorem test_crc_update : crcUpdate 0xFFFFFFFF#32 0x00#8 = 0x2DFD1072#32 ∧ crcUpdate 0xFFFFFFFF#32 0xFF#8 = 0x00FFFFFF#32 ∧
    crcUpdate 0#32 0x01#8 = 0x77073096#32 ∧ crcUpdate 0#32 0x80#8 = 0xEDB88320#32 := by decide

/-- V6, V9, V10: the empty sequence, "a" and "123456789". -/
theorem test_crc32 : crc32 [] = 0#32 ∧ crc32 [0x61#8] = 0xE8B7BE43#32 ∧
    crc32 [0x31#8, 0x32#8, 0x33#8, 0x34#8, 0x35#8, 0x36#8, 0x37#8, 0x38#8, 0x39#8] = 0xCBF43926#32 := by decide +kernel

/-! ## The commands -/

/-- V60: only the field is written. -/
theorem test_ckclr : nextIs (startsWith [0x00#8, 0x00#8, 0x00#8, 0x00#8, 0xAA#8, 0x68#8]) (exec .ckclr dirtyHello) = true := by
  decide

set_option maxRecDepth 1000000 in
/-- V11c, V61: the field counts as zero. -/
theorem test_cksum : nextIs (fun t => t.acc == 0x060B1780#32)
    (exec .cksum (loaded [0xFF#8, 0xFF#8, 0xFF#8, 0xFF#8])) = true := by decide +kernel

/-- V63. -/
theorem test_ckput : nextIs (startsWith [0x0E#8, 0x9F#8, 0x21#8, 0x86#8, 0xAA#8])
    (exec .ckput { dirtyHello with acc := 0x0E9F2186#32 }) = true := by decide

/-- V66: byte 0 is the most significant. -/
theorem test_ckget : nextIs (fun t => t.chk == 0x86219F0E#32)
    (exec .ckget (loaded [0x86#8, 0x21#8, 0x9F#8, 0x0E#8])) = true := by decide

set_option maxRecDepth 1000000 in
/-- V14. -/
theorem test_encode_hello : nextIs (startsWith [0x0E#8, 0x9F#8, 0x21#8, 0x86#8, 0x02#8, 0x68#8, 0x65#8, 0x6C#8, 0x6C#8, 0x6F#8, 0x00#8])
    (exec (.encode 5 true) dirtyHello) = true := by decide +kernel

/-- V14: PLEN and TXLEN. -/
theorem test_encode_lengths : nextIs (fun t => t.plen == 5#10 && t.txlen == 1000#10 && t.chk == 0#32)
    (exec (.encode 5 true) dirtyHello) = true := by decide

/-- V28. -/
theorem test_decode_hello : nextIs (fun t => t.chk == 0x0E9F2186#32 && t.flg == 0x02#8 && t.plen == 995#10)
    (exec (.decode 1000) helloPacket) = true := by decide

/-- V29b: all eight bits of the flags byte. -/
theorem test_decode_short : nextIs (fun t => t.chk == 0x12345678#32 && t.flg == 0xFF#8 && t.plen == 1#10)
    (exec (.decode 6) (loaded [0x12#8, 0x34#8, 0x56#8, 0x78#8, 0xFF#8])) = true := by decide

set_option maxRecDepth 1000000 in
/-- V20. -/
theorem test_verify_accepts : nextIs (fun t => t.valid) (exec .verify helloPacket) = true := by decide +kernel

set_option maxRecDepth 1000000 in
/-- V23: FIN cleared. -/
theorem test_verify_rejects : nextIs (fun t => t.acc == 0x4F758D26#32)
    (exec .verify { helloPacket with buf := Memory.write helloPacket.buf 4 0x00#8 }) = true := by decide +kernel

/-- V30 to V35. -/
theorem test_issetAck : [0x00#8, 0x01#8, 0x02#8, 0x03#8, 0xFE#8, 0xFF#8].map
    (fun f => nextIs (fun t => t.t) (exec (.issetAck f) State.reset)) = [false, true, false, true, false, true] := by decide

/-- V36 to V41. -/
theorem test_issetFin : [0x00#8, 0x01#8, 0x02#8, 0x03#8, 0xFD#8, 0xFF#8].map
    (fun f => nextIs (fun t => t.t) (exec (.issetFin f) State.reset)) = [false, false, true, true, false, true] := by decide

/-- V42. -/
theorem test_mkack : nextIs (fun t => t.txlen == 5#10 && t.plen == 0#10 &&
      startsWith [0x00#8, 0x00#8, 0x00#8, 0x00#8, 0x01#8, 0x68#8, 0x65#8] t) (exec (.mkack true) helloPacket) = true := by
  decide

/-! ## Host steps and faults -/

/-- V50, V52, V73, V29c, V29e, V75 and V76: STATUS and FINFO after each. -/
theorem test_faults : [HostStep.regWrite 0#3 0x03E40008#32, .regWrite 0#3 0#32, .regWrite 0#3 0x03FF0208#32,
    .regWrite 0#3 0x00040009#32, .regWrite 0#3 0x03E90009#32, .bufWrite 1000#10 0x01#8, .bufRead 1023#10].map
      (fun h => (statusWord (hostStep h State.reset), (hostStep h State.reset).finfo)) =
    [(0x22#32, 0x03E40008#32), (0x12#32, 0#32), (0x12#32, 0x03FF0208#32), (0x32#32, 0x00040009#32),
      (0x32#32, 0x03E90009#32), (0x42#32, 0x000003E8#32), (0x42#32, 0x000003FF#32)] := by decide

/-- V77, V78, V79: the nearest accepted accesses. -/
theorem test_accepted : Memory.read (hostStep (.bufWrite 999#10 0x07#8) State.reset).buf 999 = 0x07#8 ∧
    statusWord (hostStep (.regWrite 0#3 0x03E30008#32) State.reset) = 0x1#32 ∧
    (hostStep (.regWrite 3#3 0x12345678#32) State.reset).chk = 0#32 := by decide

/-- V80 and V82: STATUS and FINFO. -/
theorem test_busyFault : [HostStep.bufWrite 5#10 0x00#8, .regRead 2#3].map
    (fun h => (statusWord (hostStep h verifying) &&& 0x73#32, (hostStep h verifying).finfo, (hostStep h verifying).cmdr)) =
      [(0x52#32, 0xA#32, 0xA#32), (0x52#32, 0xA#32, 0xA#32)] := by
  simp [hostStep, bufWrite, regRead, gate, State.phase, verifying, State.inFlight, raiseFault, State.enterFault,
    State.scramble, State.answer, State.answerUnspecifiedWord, statusWord, FaultCause.code]
  generalize Config.freeValid _ = b
  generalize Config.freeT _ = c
  revert b c
  decide

/-- V81: polling is always allowed. -/
theorem test_poll_while_busy : (hostStep (.regRead 1#3) verifying).reply = some (.word 0x1#32) ∧
    (hostStep (.regRead 1#3) verifying).busy = true := by decide

/-- V83: the first fault stays, and a write is discarded. -/
theorem test_frozen : statusWord (hostStep (.regWrite 0#3 0xA#32) capacityFaulted) = 0x22#32 ∧
    (hostStep (.bufWrite 5#10 0x01#8) capacityFaulted).buf = [] ∧
    (hostStep (.regWrite 0#3 0xA#32) capacityFaulted).cmdr = 0#32 := by decide

/-- P6: reset is the recovery. -/
theorem test_reset_recovers : statusWord (hostStep .reset capacityFaulted) = 0#32 := by
  simp [hostStep, resetStep, State.reset, statusWord]

/-! ## The step -/

/-- Fetching runs exactly the word, and BUSY falls (V31). -/
theorem test_withFetchWord : nextIs (fun t => t.t && !t.busy && t.cmdr == 0x0001010B#32)
    (step (State.reset.withFetchWord 32 0x0001010B)) = true := by decide

/-- R94, R221: issue, a poll while the latency runs, completion. -/
theorem test_script : nextIs (fun t => t.t && t.host.isEmpty && !t.busy)
    (Host.Core.run core 5
      { State.reset with host := [scriptCommand (.issetFin 0x02#8), .wait], latencies := [2] }) = true := by decide

/-- R222: with nothing to do the state stays. -/
theorem test_idle : step State.reset = .next State.reset := rfl

/-- The memory after reset has the canonical form. -/
theorem test_reset_memory : Memory.wf State.reset.buf := Memory.empty_wf

/-! ## Witnesses: concrete states and operands that meet the hypotheses of each obligation, at the bounds of their ranges -/

/-- Phases IDLE, BUSY and FAULTED. -/
theorem witness_phases : State.reset.phase = .idle ∧ verifying.phase = .busy ∧ capacityFaulted.phase = .faulted := by decide

theorem witness_DecodeAndEncodeAgree : (Instr.encode 1023 true).wellFormed = true ∧ (Instr.decode 0).wellFormed = true ∧
    decode 0x0002FF0B#32 = .ok (.issetFin 0xFF#8) := by decide

theorem witness_NoTwoRowsCoverOneWord : (0x0001FF0B#32 &&& (rows[7]).mask = (rows[7]).pattern) ∧
    (0x0002FF0B#32 &&& (rows[8]).mask = (rows[8]).pattern) := by decide

/-- One word of every class of R89, and the operands at the bounds of the two ranges. -/
theorem witness_IllegalWordsAreTheReservedOnes :
    [0x0#32, 0x00000010#32, 0x04000001#32, 0x00010001#32, 0x00000208#32, 0x0001010C#32, 0x00000109#32, 0x0003000B#32,
      0x0100000B#32].map (fun w => (decode w).toOption) = List.replicate 9 none ∧
    (995 < 996 ∧ 996 < 1024) ∧ (995 < 1023 ∧ 1023 < 1024) ∧ (4 < 5) ∧ (1000 < 1001 ∧ 1023 < 1024) :=
  ⟨by decide, by decide, by decide, by decide, by decide⟩

/-- V58's mask, and the widest operand. -/
theorem witness_PseudoInstructionsExpand : (0x03#8 : Byte) ≠ 0x01#8 ∧ (0x03#8 : Byte) ≠ 0x02#8 ∧ 1023 < 1024 := by decide

/-- Bytes on both sides of the field. -/
theorem witness_FourByteAccessIsBigEndian : (0 < 1 ∨ 1 + 3 < 0) ∧ (5 < 1 ∨ 1 + 3 < 5) := by decide

theorem witness_HostReadsTheLastWrite : State.reset.phase = .idle ∧ (999#10 : BufAddr).toNat ≤ 999 ∧
    (hostStep (.bufRead 0#10) emptyPacket).reply = some (.byte 0x06#8) ∧
    (hostStep (.bufRead 1#10) emptyPacket).reply = some (.byte 0x0B#8) ∧
    (hostStep (.bufRead 2#10) emptyPacket).reply = some (.byte 0x17#8) ∧
    (hostStep (.bufRead 3#10) emptyPacket).reply = some (.byte 0x80#8) := by decide

theorem witness_CrcIsAffine : ([0x01#8, 0x80#8] : List Byte).length = [0x02#8, 0x40#8].length ∧
    ([0x02#8, 0x40#8] : List Byte).length = [0x04#8, 0x20#8].length := by decide

theorem witness_BufferChecksumTakesFieldAsZero : 0 < 4 ∧ 3 < 4 := by decide

theorem nextIs_elim {p : State → Bool} {o : Host.Outcome State Fault Refusal} (h : nextIs p o = true) :
    ∃ t, o = .next t ∧ p t = true := by
  cases o with
  | next t => exact ⟨t, rfl, h⟩
  | fault r => cases h
  | refused r => cases h

/-- V20's packet is valid; a change at each bound of both ranges. -/
theorem witness_OneChangedByteIsAlwaysDetected : (4 ≤ 4 ∧ 4 < 1000 ∧ 0x00#8 ≠ Memory.read helloPacket.buf 4) ∧
    (4 ≤ 999 ∧ 999 < 1000 ∧ 0x80#8 ≠ Memory.read helloPacket.buf 999) ∧ (0 < 4 ∧ 0x8E#8 ≠ Memory.read helloPacket.buf 0) ∧
    (3 < 4 ∧ 0x87#8 ≠ Memory.read helloPacket.buf 3) ∧ ∃ u, exec .verify helloPacket = .next u ∧ u.valid = true :=
  ⟨by decide, by decide, by decide, by decide, nextIs_elim test_verify_accepts⟩

/-- A word with the opcode and a non-zero `A`, and one with a non-zero `L`. -/
theorem witness_CkclrZeroesTheField : (opField 0x00000101#32 = 0x1#4 ∧ aField 0x00000101#32 ≠ 0#8) ∧
    (opField 0x00010001#32 = 0x1#4 ∧ lField 0x00010001#32 ≠ 0#10) := by decide

theorem witness_CksumAccumulatesTheBuffer : (opField 0x00008002#32 = 0x2#4 ∧ aField 0x00008002#32 ≠ 0#8) ∧
    (opField 0x02000002#32 = 0x2#4 ∧ lField 0x02000002#32 ≠ 0#10) := by decide

theorem witness_CkputStoresAccBigEndian : (opField 0x00000103#32 = 0x3#4 ∧ aField 0x00000103#32 ≠ 0#8) ∧
    (opField 0x00010003#32 = 0x3#4 ∧ lField 0x00010003#32 ≠ 0#10) := by decide

theorem witness_CkgetLoadsTheFieldBigEndian : (opField 0x00000104#32 = 0x4#4 ∧ aField 0x00000104#32 ≠ 0#8) ∧
    (opField 0x00010004#32 = 0x4#4 ∧ lField 0x00010004#32 ≠ 0#10) := by decide

/-- P5's buffer: the flags byte of a final packet, "hello", zero filler. -/
theorem witness_PrimitivesComposeToEncodeAndVerify : 5 ≤ 995 ∧ byte helloPacket 4 = 0x02#8 ∧
    ∀ a, 5 + 5 ≤ a → a ≤ 999 → byte helloPacket a = 0x00#8 := by
  refine ⟨by decide, by decide, fun a h _ => Memory.read_of_absent ?_⟩
  have hm : ∀ cell ∈ helloPacket.buf, cell.1 ≤ 9 := by decide
  exact fun cell hc => by have := hm cell hc; omega

/-- No payload, the largest one, the smallest and the largest that are too large, and the three illegal forms. -/
theorem witness_EncodeMarshalsThePacket : 0 ≤ 995 ∧ 995 ≤ 995 ∧ (995 < 996 ∧ 996 < 1024) ∧ (995 < 1023 ∧ 1023 < 1024) ∧
    (opField 0x00000208#32 = 0x8#4 ∧ (aField 0x00000208#32).extractLsb' 1 7 ≠ 0#7) ∧
    (opField 0x00000018#32 = 0x8#4 ∧ z0Field 0x00000018#32 ≠ 0#4) ∧
    (opField 0x04000008#32 = 0x8#4 ∧ z1Field 0x04000008#32 ≠ 0#6) := by decide

/-- Both bounds of the faulting range; two different buffers with the same payload. -/
theorem witness_EncodeCornerCases : (996 ≤ 996 ∧ 996 ≤ 1023) ∧ (996 ≤ 1023 ∧ 1023 ≤ 1023) ∧ 995 ≤ 995 ∧
    dirtyHello ≠ helloPacket ∧ ∀ a, 5 ≤ a → a < 5 + 5 → byte dirtyHello a = byte helloPacket a := by
  refine ⟨by decide, by decide, by decide, by decide, fun a h h' => ?_⟩
  have : ∀ k : Fin 5, byte dirtyHello (5 + k) = byte helloPacket (5 + k) := by decide
  have := this ⟨a - 5, by omega⟩
  rwa [show 5 + (a - 5) = a by omega] at this

theorem witness_DecodeUnmarshalsTheHeader : (5 ≤ 5 ∧ 5 ≤ 1000) ∧ (5 ≤ 1000 ∧ 1000 ≤ 1000) ∧ ((0 < 5 ∨ 1000 < 0) ∧ 0 < 1024) ∧
    ((4 < 5 ∨ 1000 < 4) ∧ 4 < 1024) ∧ ((1001 < 5 ∨ 1000 < 1001) ∧ 1001 < 1024) ∧ ((1023 < 5 ∨ 1000 < 1023) ∧ 1023 < 1024) ∧
    (opField 0x00000109#32 = 0x9#4 ∧ aField 0x00000109#32 ≠ 0#8) ∧
    (opField 0x00000019#32 = 0x9#4 ∧ z0Field 0x00000019#32 ≠ 0#4) ∧
    (opField 0x04000009#32 = 0x9#4 ∧ z1Field 0x04000009#32 ≠ 0#6) := by decide

theorem witness_VerifyComparesChecksumWithField : (opField 0x0000010A#32 = 0xA#4 ∧ aField 0x0000010A#32 ≠ 0#8) ∧
    (opField 0x0001000A#32 = 0xA#4 ∧ lField 0x0001000A#32 ≠ 0#10) := by decide

theorem witness_IssetTestsOneBit : (opField 0x0001001B#32 = 0xB#4 ∧ z0Field 0x0001001B#32 ≠ 0#4) ∧
    (opField 0x0401000B#32 = 0xB#4 ∧ z1Field 0x0401000B#32 ≠ 0#6) ∧
    (opField 0x0100000B#32 = 0xB#4 ∧ (lField 0x0100000B#32).extractLsb' 8 2 ≠ 0#2) := by decide

theorem witness_MkackMarshalsTheAcknowledgment :
    (opField 0x0000020C#32 = 0xC#4 ∧ (aField 0x0000020C#32).extractLsb' 1 7 ≠ 0#7) ∧
    (opField 0x0001010C#32 = 0xC#4 ∧ lField 0x0001010C#32 ≠ 0#10) ∧
    (opField 0x0000001C#32 = 0xC#4 ∧ z0Field 0x0000001C#32 ≠ 0#4) ∧
    (opField 0x0400000C#32 = 0xC#4 ∧ z1Field 0x0400000C#32 ≠ 0#6) := by decide

theorem witness_FlagTestIsTheBit : (0x01#8 = 0x01#8 ∨ 0x01#8 = 0x02#8) ∧ (0x02#8 = 0x01#8 ∨ 0x02#8 = (0x02#8 : Byte)) := by decide

/-- Every command has operands that pass; two states that agree on what `CKPUT` and `DECODE` read and differ elsewhere; a
completion. -/
theorem witness_CommandsKeepTheirFootprint :
    (∀ i ∈ [Instr.ckclr, .cksum, .ckput, .ckget, .encode 0 true, .encode 995 false, .decode 5, .decode 1000, .verify,
      .issetAck 0xFF#8, .issetFin 0x00#8, .mkack true], operandFault pcodec i = none) ∧
    (State.reset ≠ { State.reset with chk := 1#32 } ∧ State.reset.acc = { State.reset with chk := 1#32 }.acc ∧
      ∀ a, byte State.reset a = byte { State.reset with chk := 1#32 } a) ∧
    (∃ t u, exec .ckput State.reset = .next t ∧ exec .ckput { State.reset with chk := 1#32 } = .next u) ∧
    Completes (State.reset.inFlight 0x0000010C#32) (.mkack true) :=
  ⟨by decide, ⟨by decide, rfl, fun _ => rfl⟩, ⟨_, _, rfl, rfl⟩, rfl, rfl⟩

theorem witness_EncodedPacketVerifiesAndDecodes : 0 ≤ 995 ∧ 995 ≤ 995 ∧
    SamePacket { helloPacket with acc := 1#32 } helloPacket := ⟨by decide, by decide, fun _ _ => rfl⟩

/-- This hardware's configuration is consistent, and so is one with another checksum function. -/
theorem witness_RoundTripHoldsForEveryConfiguration : pcodec.Consistent ∧ 995 ≤ pcodec.maxPayload ∧
    { pcodec with crc32 := fun _ => 0#32 }.Consistent :=
  ⟨pcodec_consistent, by decide, { pcodec_consistent with }⟩

theorem witness_AcknowledgmentIsReadBackNotVerified : SamePacket { helloPacket with acc := 1#32 } helloPacket := fun _ _ => rfl

theorem witness_VerifyAndDecodeAreRepeatable : SamePacket { emptyPacket with flg := 1#8 } emptyPacket := fun _ _ => rfl

theorem witness_RegisterSpaceReadsAndIgnoresWrites : State.reset.phase = .idle ∧ (7#3 : RegNum) ≠ 0#3 ∧ (1#3 : RegNum) ≠ 0#3 := by
  decide

/-- The last byte, the first and the last address without storage, in every phase. -/
theorem witness_BufferAccessByPhase : State.reset.phase = .idle ∧ verifying.phase = .busy ∧ capacityFaulted.phase = .faulted ∧
    (999#10 : BufAddr).toNat ≤ 999 ∧ 999 < (1000#10 : BufAddr).toNat ∧ 999 < (1023#10 : BufAddr).toNat := by decide

theorem witness_StatusMayBePolledInAnyPhase : (State.reset.phase = .idle ∨ State.reset.phase = .faulted) ∧
    (capacityFaulted.phase = .idle ∨ capacityFaulted.phase = .faulted) ∧ verifying.phase = .busy ∧ (2#3 : RegNum) ≠ 1#3 := by
  decide

/-- An illegal word; `ENCODE` at 995, 996 and 1023; `DECODE` at 0, 4, 5, 1000, 1001 and 1023. -/
theorem witness_CommandIssueByPhase : capacityFaulted.phase = .faulted ∧ verifying.phase = .busy ∧ State.reset.phase = .idle ∧
    (∀ r ∈ rows, 0x0003000B#32 &&& r.mask ≠ r.pattern) ∧ decode 0x03E40008#32 = .ok (.encode 996 false) ∧
    decode 0x03FF0108#32 = .ok (.encode 1023 true) ∧ decode 0x00000009#32 = .ok (.decode 0) ∧
    decode 0x00040009#32 = .ok (.decode 4) ∧ decode 0x03E90009#32 = .ok (.decode 1001) ∧
    decode 0x03FF0009#32 = .ok (.decode 1023) ∧ decode 0x03E30008#32 = .ok (.encode 995 false) ∧
    decode 0x00050009#32 = .ok (.decode 5) ∧ decode 0x03E80009#32 = .ok (.decode 1000) := by decide

/-- Each of the five causes is taken by some host step. -/
theorem witness_EveryFaultIsOneOfTheFive : State.reset.fault = false ∧ verifying.fault = false ∧
    (∀ h ∈ [HostStep.regWrite 0#3 0#32, .regWrite 0#3 0x03E40008#32, .regWrite 0#3 0x00040009#32, .bufWrite 1000#10 0x01#8],
      (hostStep h State.reset).fault = true) ∧ (hostStep (.regRead 2#3) verifying).fault = true :=
  ⟨rfl, rfl, by decide, rfl⟩

theorem witness_FaultEntryWritesTheFaultState : FaultCause.bufferRange ≠ .busyFault := by decide

theorem witness_BusyFaultLosesBufferAndResults : verifying.phase = .busy ∧ HostStep.regRead 2#3 ≠ .regRead 1#3 ∧
    HostStep.regRead 2#3 ≠ .reset ∧ HostStep.regWrite 1#3 0#32 ≠ .regRead 1#3 := by decide

theorem witness_CapacityFaultIsNotRecoverable : (996 ≤ 996 ∧ 996 ≤ 1023) ∧ (996 ≤ 1023 ∧ 1023 ≤ 1023) ∧
    HostStep.regWrite 0#3 0xA#32 ≠ .reset := by decide

theorem witness_FaultedBlockIsFrozen : capacityFaulted.phase = .faulted ∧ HostStep.bufWrite 5#10 0x01#8 ≠ .reset := by decide

/-- A faulted machine whose host goes on without a reset, for two steps. -/
theorem witness_FaultLastsUntilReset :
    let s := { capacityFaulted with host := [.act (.bufWrite 5#10 0x01#8), .act (.regRead 1#3)] }
    s.phase = .faulted ∧ (∀ x ∈ s.host, x ≠ .act .reset) ∧ ∃ t, Host.Core.run core 2 s = .next t :=
  ⟨by decide, by decide, _, rfl⟩

/-- The reset out of a fault. -/
theorem witness_OnlyResetClearsFault :
    let s := { capacityFaulted with host := [.act .reset] }
    ∃ t, step s = .next t ∧ s.fault = true ∧ t.fault = false := ⟨_, rfl, rfl, rfl⟩

theorem witness_ReadsHaveNoSideEffect : (hostStep (.regRead 7#3) State.reset).fault = State.reset.fault ∧
    (hostStep (.bufRead 999#10) State.reset).fault = State.reset.fault ∧ (999#10 : BufAddr).toNat ≤ 999 ∧
    (hostStep (.bufRead 1023#10) capacityFaulted).fault = capacityFaulted.fault := by decide

/-- A state that meets the invariant while a command is in flight, and its step. -/
theorem witness_StepKeepsInvariant : Invariant verifying ∧ ∃ t, step verifying = .next t := by
  have hl : LegalWord verifying.cmdr := ⟨.verify, rfl, rfl⟩
  refine ⟨⟨Memory.empty_wf, ?_, ?_, ?_, fun _ => hl, .inr hl, ?_, ?_, ?_⟩, _, rfl⟩
  · decide
  · decide
  · intro h; cases h
  · intro h; cases h
  · decide
  · decide

theorem witness_MachineNeverStops : Invariant verifying := witness_StepKeepsInvariant.1

theorem witness_StepRunsTheDecodedCommand : (State.reset.inFlight 0x03E80009#32).phase = .busy ∧
    (State.reset.inFlight 0x03E80009#32).delay = 0 ∧ decode (State.reset.inFlight 0x03E80009#32).cmdr = .ok (.decode 1000) := by
  decide

theorem witness_CompleteRaisesNoFault : (State.reset.inFlight 0x03E30008#32).phase = .busy ∧
    (State.reset.inFlight 0x03E30008#32).delay = 0 ∧
    decode (State.reset.inFlight 0x03E30008#32).cmdr = .ok (.encode 995 false) ∧
    operandFault pcodec (.encode 995 false) = none ∧ State.reset.phase ≠ .busy ∧ verifying.delay ≠ 0 := by decide

theorem witness_OperandOutOfRangeTakesItsFault : 995 < 996 ∧ (4 < 5 ∨ 1000 < 4) ∧ (1001 < 5 ∨ 1000 < 1001) := by decide

theorem witness_CommandInFlightCannotBeReplaced :
    ∃ t, step verifying = .next t ∧ verifying.phase = .busy ∧ t.phase = .busy := ⟨_, rfl, rfl, rfl⟩

/-- An issue, a completion, a `BusyFault` and a reset while a command is in flight. -/
theorem witness_BusyIsSetByIssueOnly :
    (∃ t, step { State.reset with host := [scriptCommand .verify] } = .next t ∧ t.busy = true) ∧
    (∃ t, step (State.reset.inFlight 0x0000000C#32) = .next t ∧ t.busy = false) ∧
    (∃ t, step { verifying with host := [.act (.bufRead 0#10)] } = .next t ∧ t.busy = false) ∧
    (∃ t, step { verifying with host := [.act .reset] } = .next t ∧ t.busy = false) :=
  ⟨⟨_, rfl, rfl⟩, ⟨_, rfl, rfl⟩, ⟨_, rfl, rfl⟩, ⟨_, rfl, rfl⟩⟩

/-- `ISSET.ACK 0x01` changes T; `MKACK` changes TXLEN. -/
theorem witness_ResultRegistersHaveTheirWriters :
    (∃ t, step (State.reset.inFlight 0x0001010B#32) = .next t ∧ t.t ≠ State.reset.t) ∧
    (∃ t, step (State.reset.inFlight 0x0000010C#32) = .next t ∧ t.txlen ≠ State.reset.txlen) :=
  ⟨⟨_, rfl, by decide⟩, ⟨_, rfl, by decide⟩⟩

/-- A `BufWrite` at the last byte, and `MKACK 1`, change BUF. -/
theorem witness_BufferHasItsWriters :
    (∃ t, step { State.reset with host := [.act (.bufWrite 999#10 0x07#8)] } = .next t ∧ byte t 999 ≠ byte State.reset 999) ∧
    (∃ t, step (State.reset.inFlight 0x0000010C#32) = .next t ∧ byte t 4 ≠ byte State.reset 4) :=
  ⟨⟨_, rfl, by decide⟩, ⟨_, rfl, by decide⟩⟩

/-- A latency of three turns, and a host that waits and polls. -/
theorem witness_PollingReachesCompletion :
    let s := { verifying with host := [.act (.regRead 1#3), .wait] }
    s.phase = .busy ∧ decode s.cmdr = .ok .verify ∧ operandFault pcodec .verify = none ∧ ∀ x ∈ s.host, Polls x := by
  refine ⟨by decide, by decide, by decide, fun x hx => ?_⟩
  simp at hx
  rcases hx with rfl | rfl
  · exact .inr rfl
  · exact .inl rfl

/-- The datagrams of V14, V42 and V29. -/
theorem witness_WireViewOfThePacket : 0 ≤ 995 ∧ 995 ≤ 995 ∧ (5 ≤ 5 ∧ 5 ≤ 1000) ∧ (5 ≤ 1000 ∧ 1000 ≤ 1000) := by decide

/-- "hello" loaded behind the header, and the last two bytes of BUF. -/
theorem witness_ScriptLoadsBytes :
    (let s := { State.reset with host := scriptBytes 5 [0x68#8, 0x65#8, 0x6C#8, 0x6C#8, 0x6F#8] ++ [HostItem.wait] }
     s.phase = .idle ∧ 5 + 5 ≤ 1000 ∧ s.host = scriptBytes 5 [0x68#8, 0x65#8, 0x6C#8, 0x6C#8, 0x6F#8] ++ [HostItem.wait]) ∧
    998 + ([0x01#8, 0x02#8] : List Byte).length ≤ 1000 := by decide

/-- P1's command, issued by a script with a latency of two turns. -/
theorem witness_ScriptCommandTakesEffect :
    let s := { State.reset with host := [scriptCommand (.encode 5 true), HostItem.wait, .act (.regRead 6#3)], latencies := [2] }
    (Instr.encode 5 true).wellFormed = true ∧ operandFault pcodec (.encode 5 true) = none ∧ s.phase = .idle ∧
      s.host = scriptCommand (.encode 5 true) :: .wait :: [.act (.regRead 6#3)] := by decide

end Sys2Proof.Tests
end

section
/-! PROOFS of the family 10_state, part 1: what "the same spec state" is kept by, and what the host's turn does to it. -/

namespace Sys2Proof.Machine

/-! ## The phase and the script after an update -/

@[simp] theorem answerUnspecifiedByte_phase (s : State) : s.answerUnspecifiedByte.phase = s.phase := rfl
@[simp] theorem answerUnspecifiedWord_phase (s : State) : s.answerUnspecifiedWord.phase = s.phase := rfl
@[simp] theorem resetStep_phase (s : State) : (resetStep s).phase = .idle := rfl
@[simp] theorem resetStep_busy (s : State) : (resetStep s).busy = false := rfl
@[simp] theorem resetStep_fault (s : State) : (resetStep s).fault = false := rfl
@[simp] theorem resetStep_host (s : State) : (resetStep s).host = s.host := rfl

theorem issue_host (w : Word) (s : State) : (issue w s).host = s.host := by
  rcases issue_cases w s with ⟨_, e⟩ | ⟨_, _, _, _, e⟩ | ⟨_, _, _, e⟩ <;> simp [e]

/-- No host step touches the script: the host's turn alone takes a line off it. -/
@[simp] theorem hostStep_host (h : HostStep) (s : State) : (hostStep h s).host = s.host := by
  cases hp : s.phase with
  | idle =>
    rcases hostStep_idle_cases h hp with
      ⟨_, e⟩ | ⟨_, _, e⟩ | ⟨_, _, _, e⟩ | ⟨_, _, _, _, e⟩ | ⟨_, _, _, _, e⟩ | ⟨_, _, e⟩ <;>
      simp [e, issue_host]
  | busy =>
    rcases hostStep_busy_cases h hp with ⟨_, e⟩ | ⟨_, e⟩ | ⟨_, _, e | e | e⟩ <;> simp [e]
  | faulted =>
    rcases hostStep_faulted_cases h hp with ⟨_, e⟩ | ⟨_, ⟨_, e⟩ | e⟩ <;> simp [e]

/-- The host's turn leaves a tail of the script. -/
theorem hostMove_host_suffix (s : State) : (hostMove s).host <:+ s.host := by
  rcases hostMove_cases s with ⟨_, e⟩ | ⟨rest, _, _, e⟩ | ⟨rest, hs, _, e⟩ | ⟨h, rest, hs, e⟩
  · simp [e]
  · simp [e]
  · simp [e, hs]
  · simp [e, hs]

end Sys2Proof.Machine

namespace Sys2Proof.Says

open Sys2Proof.Machine

/-! ## The same spec state (R20) -/

theorem SameSpecState.refl (s : State) : SameSpecState s s := by
  constructor <;> simp

theorem SameSpecState.trans {s t u : State} (h : SameSpecState s t) (h' : SameSpecState t u) : SameSpecState s u where
  bytes a := (h'.bytes a).trans (h.bytes a)
  acc := h'.acc.trans h.acc
  chk := h'.chk.trans h.chk
  flg := h'.flg.trans h.flg
  plen := h'.plen.trans h.plen
  txlen := h'.txlen.trans h.txlen
  finfo := h'.finfo.trans h.finfo
  cmdr := h'.cmdr.trans h.cmdr
  busy := h'.busy.trans h.busy
  fault := h'.fault.trans h.fault
  cause := h'.cause.trans h.cause
  valid := h'.valid.trans h.valid
  tFlag := h'.tFlag.trans h.tFlag

theorem SameSpecState.phase {s t : State} (h : SameSpecState s t) : t.phase = s.phase :=
  phase_congr h.fault h.busy

theorem sameSpecState_answer (r : Option Reply) (s : State) : SameSpecState s (s.answer r) :=
  { SameSpecState.refl s with }

theorem sameSpecState_answerUnspecifiedByte (s : State) : SameSpecState s s.answerUnspecifiedByte :=
  { SameSpecState.refl s with }

theorem sameSpecState_withHost (rest : List HostItem) (s : State) : SameSpecState s (s.withHost rest) :=
  { SameSpecState.refl s with }

theorem sameSpecState_passTurn (s : State) : SameSpecState s s.passTurn :=
  { SameSpecState.refl s with }

/-- The state a host step of a script starts from. -/
theorem sameSpecState_passTurn_withHost (rest : List HostItem) (s : State) :
    SameSpecState s (s.passTurn.withHost rest) :=
  (sameSpecState_passTurn s).trans (sameSpecState_withHost rest _)

/-- The host's turn changes the spec's state by a host step, or not at all. -/
theorem hostMove_same_or_hostStep (s : State) :
    SameSpecState s (hostMove s) ∨
    ∃ h rest, s.host = .act h :: rest ∧ hostMove s = hostStep h (s.passTurn.withHost rest) := by
  rcases hostMove_cases s with ⟨_, e⟩ | ⟨rest, _, _, e⟩ | ⟨rest, _, _, e⟩ | act
  · exact .inl (e ▸ sameSpecState_passTurn s)
  · exact .inl (e ▸ (sameSpecState_passTurn s).trans (sameSpecState_answer _ _))
  · exact .inl (e ▸ ((sameSpecState_passTurn s).trans (sameSpecState_answer _ _)).trans (sameSpecState_withHost _ _))
  · exact .inr act

/-! ## Phase FAULTED: a run without Reset (R189, R190) -/

theorem hostStep_faulted_sameSpecState {s : State} {h : HostStep} (hp : s.phase = .faulted) (hr : h ≠ .reset) :
    SameSpecState s (hostStep h s) := by
  rcases hostStep_faulted_cases h hp with ⟨e, _⟩ | ⟨_, ⟨r, e⟩ | e⟩
  · exact absurd e hr
  · exact e ▸ sameSpecState_answer r s
  · exact e ▸ sameSpecState_answerUnspecifiedByte s

theorem hostMove_faulted_sameSpecState {s : State} (hp : s.phase = .faulted) (hr : ∀ x ∈ s.host, x ≠ .act .reset) :
    SameSpecState s (hostMove s) := by
  rcases hostMove_same_or_hostStep s with same | ⟨h, rest, hs, e⟩
  · exact same
  · have hne : h ≠ .reset := fun eq => hr (.act h) (by simp [hs]) (by rw [eq])
    exact e ▸ (sameSpecState_passTurn_withHost rest s).trans (hostStep_faulted_sameSpecState (by simpa using hp) hne)

theorem engineTurn_of_not_busy {s : State} (h : s.phase ≠ .busy) : engineTurn s = false := by
  simp [engineTurn, h]

/-! ## Phase BUSY: the command in flight (R27, R29, R37) -/

/-- A host step that leaves the block BUSY was a read of STATUS (R186). -/
theorem hostStep_stays_busy_sameSpecState {s : State} {h : HostStep} (hs : s.phase = .busy)
    (ht : (hostStep h s).phase = .busy) : SameSpecState s (hostStep h s) := by
  rcases hostStep_busy_cases h hs with ⟨_, e⟩ | ⟨_, e⟩ | ⟨_, _, e | e | e⟩
  · exact e ▸ sameSpecState_answer _ s
  all_goals simp [e] at ht

theorem hostMove_stays_busy_sameSpecState {s : State} (hs : s.phase = .busy) (ht : (hostMove s).phase = .busy) :
    SameSpecState s (hostMove s) := by
  rcases hostMove_same_or_hostStep s with same | ⟨h, rest, _, e⟩
  · exact same
  · rw [e] at ht ⊢
    exact (sameSpecState_passTurn_withHost rest s).trans (hostStep_stays_busy_sameSpecState (by simpa using hs) ht)

/-- The issue of a word sets BUSY only by accepting it (R54). -/
theorem issue_sets_busy {w : Word} {s : State} (hb : (issue w s).busy = true) :
    LegalWord w ∧ issue w s = s.accept w := by
  rcases issue_cases w s with ⟨_, e⟩ | ⟨_, _, _, _, e⟩ | ⟨i, hi, hn, e⟩
  · simp [e] at hb
  · simp [e] at hb
  · exact ⟨⟨i, hi, hn⟩, e⟩

theorem hostStep_sets_busy {s : State} {h : HostStep} (hs : s.busy = false) (ht : (hostStep h s).busy = true) :
    s.phase = .idle ∧ ∃ w, h = .regWrite 0#3 w ∧ LegalWord w ∧ (hostStep h s).cmdr = w := by
  cases hp : s.phase with
  | idle =>
    rcases hostStep_idle_cases h hp with
      ⟨_, e⟩ | ⟨_, _, e⟩ | ⟨_, _, _, e⟩ | ⟨_, _, _, _, e⟩ | ⟨_, _, _, _, e⟩ | ⟨w, hw, e⟩
    case inr.inr.inr.inr.inr =>
      obtain ⟨legal, accepted⟩ := issue_sets_busy (w := w) (s := s) (by simpa [e] using ht)
      exact ⟨rfl, w, hw, legal, by simp [e, accepted]⟩
    all_goals simp [e, hs] at ht
  | busy => simp [phase_busy_iff, hs] at hp
  | faulted =>
    rcases hostStep_faulted_cases h hp with ⟨_, e⟩ | ⟨_, ⟨_, e⟩ | e⟩ <;> simp [e, hs] at ht

theorem hostStep_clears_busy {s : State} {h : HostStep} (hs : s.busy = true) (ht : (hostStep h s).busy = false) :
    h = .reset ∨ (s.fault = false ∧ (hostStep h s).fault = true) := by
  cases hp : s.phase with
  | idle => simp [phase_idle_iff, hs] at hp
  | busy =>
    rcases hostStep_busy_cases h hp with ⟨_, e⟩ | ⟨hr, _⟩ | ⟨_, _, e | e | e⟩
    · simp [e, hs] at ht
    · exact .inl hr
    all_goals exact .inr ⟨((phase_busy_iff s).mp hp).1, by simp [e]⟩
  | faulted =>
    rcases hostStep_faulted_cases h hp with ⟨hr, _⟩ | ⟨_, ⟨_, e⟩ | e⟩
    · exact .inl hr
    all_goals simp [e, hs] at ht

theorem hostMove_sets_busy {s : State} (hs : s.busy = false) (ht : (hostMove s).busy = true) :
    s.phase = .idle ∧ ∃ w rest, s.host = .act (.regWrite 0#3 w) :: rest ∧ LegalWord w ∧ (hostMove s).cmdr = w := by
  rcases hostMove_same_or_hostStep s with same | ⟨h, rest, hh, e⟩
  · simp [same.busy, hs] at ht
  · rw [e] at ht ⊢
    obtain ⟨hp, w, rfl, legal, hc⟩ := hostStep_sets_busy (by simpa using hs) ht
    exact ⟨by simpa using hp, w, rest, hh, legal, hc⟩

theorem hostMove_clears_busy {s : State} (hs : s.busy = true) (ht : (hostMove s).busy = false) :
    (∃ rest, s.host = .act .reset :: rest) ∨ (s.fault = false ∧ (hostMove s).fault = true) := by
  rcases hostMove_same_or_hostStep s with same | ⟨h, rest, hh, e⟩
  · simp [same.busy, hs] at ht
  · rw [e] at ht ⊢
    rcases hostStep_clears_busy (by simpa using hs) ht with rfl | faults
    · exact .inl ⟨rest, hh⟩
    · exact .inr (by simpa using faults)

end Sys2Proof.Says

namespace Sys2Proof.Proofs

open Sys2Proof.Machine Sys2Proof.Says

/-- Settles O40, by induction on the length of the run: each step is a host's turn that leaves the spec's state, and what
is left of the script holds no `Reset` either. -/
theorem faultLastsUntilReset : Obligations.FaultLastsUntilReset := by
  intro k
  induction k with
  | zero =>
    intro s t _ _ h
    rw [run_zero] at h
    cases h
    exact SameSpecState.refl s
  | succ k ih =>
    intro s t hp hr h
    have turn : step s = .next (hostMove s) := step_host (engineTurn_of_not_busy (by simp [hp]))
    have same := hostMove_faulted_sameSpecState hp hr
    rw [run_next k turn] at h
    exact same.trans (ih (hostMove s) t (same.phase.trans hp)
      (fun x hx => hr x ((hostMove_host_suffix s).subset hx)) h)

/-- Settles O50: a completion clears BUSY, and the host's turn that leaves it set was a poll. -/
theorem commandInFlightCannotBeReplaced : Obligations.CommandInFlightCannotBeReplaced := by
  intro s t h hs ht
  rcases step_cases h with ⟨_, _, _, _, _, rfl⟩ | ⟨_, rfl⟩
  · simp [phase_busy_iff] at ht
  · exact hostMove_stays_busy_sameSpecState hs ht

/-- Settles O51, by the cases of a step: a completion clears BUSY; the host's turn sets it by an accepted issue alone. -/
theorem busyIsSetByIssueOnly : Obligations.BusyIsSetByIssueOnly := by
  constructor
  · intro s t h hs ht
    rcases step_cases h with ⟨_, _, _, _, _, rfl⟩ | ⟨_, rfl⟩
    · simp at ht
    · exact hostMove_sets_busy hs ht
  · intro s t h hs ht
    rcases step_cases h with ⟨turn, i, _, hi, _, _⟩ | ⟨turn, rfl⟩
    · exact .inl ⟨i, turn, hi⟩
    · rcases hostMove_clears_busy hs ht with resets | faults
      · exact .inr (.inr ⟨turn, resets⟩)
      · exact .inr (.inl faults)

end Sys2Proof.Proofs
end

section
/-! PROOFS of the family 10_state, part 2: the invariant of the machine, one lemma per update of the state, then per
command, per host step and per step. -/

namespace Sys2Proof.Machine

/-! ## Lengths as PLEN and TXLEN hold them (R25, R26) -/

theorem lengthBits_toNat {n : Nat} (h : n < 1024) : (lengthBits n).toNat = n := by
  simpa [lengthBits] using h

/-! ## The canonical memory under the codec -/

theorem framedBuffer_wf (n : Nat) (isFin : Bool) {m : Memory} (h : Memory.wf m) :
    Memory.wf (framedBuffer pcodec n isFin m) :=
  Memory.fillFrom_wf _ (Memory.write_wf _ (by decide) (Memory.write4_wf _ (by decide) h))

/-! ## The invariant under each update of the state -/

theorem reset_invariant : Invariant State.reset where
  memory := Memory.empty_wf
  phasesExclusive _ := rfl
  noFault _ := ⟨rfl, rfl⟩
  faultRecorded h := nomatch h
  inFlightLegal h := nomatch h
  lastAccepted := .inl rfl
  delayOnlyBusy _ := rfl
  plenRange _ := Nat.zero_le _
  txlenValues _ := .inl rfl

theorem resetStep_invariant (s : State) : Invariant (resetStep s) :=
  { reset_invariant with memory := Memory.unspecified_wf s.draws }

namespace Invariant

variable {s : State}

theorem cause_ne_busyFault (h : Invariant s) (hf : s.fault = false) : s.cause ≠ 5#3 := by
  simp [(h.noFault hf).1]

theorem answer (h : Invariant s) (r : Option Reply) : Invariant (s.answer r) := { h with }

theorem answerUnspecifiedByte (h : Invariant s) : Invariant s.answerUnspecifiedByte := { h with }

theorem answerUnspecifiedWord (h : Invariant s) : Invariant s.answerUnspecifiedWord := { h with }

theorem withHost (h : Invariant s) (rest : List HostItem) : Invariant (s.withHost rest) := { h with }

theorem passTurn (h : Invariant s) : Invariant s.passTurn :=
  { h with delayOnlyBusy := fun hb => by simp [h.delayOnlyBusy hb] }

theorem setBuf (h : Invariant s) {m : Memory} (hm : Memory.wf m) : Invariant { s with buf := m } :=
  { h with memory := hm }

theorem storeByte (h : Invariant s) {a : Nat} (ha : a < 1000) (b : Byte) : Invariant (s.storeByte a b) :=
  h.setBuf (Memory.write_wf b ha h.memory)

theorem setAcc (h : Invariant s) (v : Word) : Invariant { s with acc := v } := { h with }

theorem setChk (h : Invariant s) (v : Word) : Invariant { s with chk := v } := { h with }

theorem setT (h : Invariant s) (b : Bool) : Invariant { s with t := b } := { h with }

theorem finish (h : Invariant s) : Invariant s.finish :=
  { h with
    phasesExclusive := fun _ => rfl
    inFlightLegal := fun hb => nomatch hb
    delayOnlyBusy := fun _ => rfl }

theorem accept (h : Invariant s) (hf : s.fault = false) {w : Word} (hw : LegalWord w) : Invariant (s.accept w) :=
  { h with
    phasesExclusive := fun hf' => by simp [hf] at hf'
    faultRecorded := fun hf' => by simp [hf] at hf'
    inFlightLegal := fun _ => hw
    lastAccepted := .inr hw
    delayOnlyBusy := fun hb => nomatch hb }

/-- A precise fault leaves PLEN and TXLEN, which were in range because no fault had been taken. -/
theorem enterFault (h : Invariant s) (hf : s.fault = false) {c : FaultCause} {w : Word}
    (recorded : FaultRecorded (s.enterFault c w)) : Invariant (s.enterFault c w) :=
  { h with
    phasesExclusive := fun _ => rfl
    noFault := fun hf' => nomatch hf'
    faultRecorded := fun _ => recorded
    inFlightLegal := fun hb => nomatch hb
    delayOnlyBusy := fun _ => rfl
    plenRange := fun _ => h.plenRange (h.cause_ne_busyFault hf)
    txlenValues := fun _ => h.txlenValues (h.cause_ne_busyFault hf) }

/-- A `BusyFault` names the word in flight; its cause exempts PLEN and TXLEN from their ranges (R186). -/
theorem busyFault (h : Invariant s) : Invariant (raiseFault .busyFault s.cmdr s) where
  memory := Memory.unspecified_wf s.draws
  phasesExclusive _ := rfl
  noFault hf := nomatch hf
  faultRecorded _ := rfl
  inFlightLegal hb := nomatch hb
  lastAccepted := h.lastAccepted
  delayOnlyBusy _ := rfl
  plenRange hc := absurd rfl hc
  txlenValues hc := absurd rfl hc

end Invariant

/-! ## What a precise fault records (R181) -/

theorem faultRecorded_illegal {w : Word} (h : ∃ e, decode w = .error e) (s : State) :
    FaultRecorded (s.enterFault .illegalCommand w) := h

theorem faultRecorded_operand {w : Word} {i : Instr} {c : FaultCause} (hi : decode w = .ok i)
    (hc : operandFault pcodec i = some c) (s : State) : FaultRecorded (s.enterFault c w) := by
  cases i with
  | encode n isFin =>
    simp only [operandFault, pcodec_maxPayload, Option.ite_none_right_eq_some, Option.some.injEq] at hc
    obtain ⟨hn, rfl⟩ := hc
    exact ⟨n, isFin, hi, hn⟩
  | decode length =>
    simp only [operandFault, pcodec_hdrSize, pcodec_bufSize, Option.ite_none_right_eq_some, Option.some.injEq] at hc
    obtain ⟨hl, rfl⟩ := hc
    exact ⟨length, hi, hl⟩
  | _ => cases hc

theorem faultRecorded_bufferRange {a : BufAddr} (ha : 1000 ≤ a.toNat) (s : State) :
    FaultRecorded (s.enterFault .bufferRange (a.setWidth 32)) := by
  show 1000 ≤ (a.setWidth 32).toNat ∧ (a.setWidth 32).toNat ≤ 1023
  rw [BitVec.toNat_setWidth_of_le (by decide)]
  have := a.isLt
  omega

/-! ## The invariant under issue, host steps, commands and steps -/

theorem issue_keeps_invariant {s : State} (h : Invariant s) (hf : s.fault = false) (w : Word) :
    Invariant (issue w s) := by
  rcases issue_cases w s with ⟨he, e⟩ | ⟨i, c, hi, hc, e⟩ | ⟨i, hi, hn, e⟩ <;> rw [e]
  · exact h.enterFault hf (faultRecorded_illegal he s)
  · exact h.enterFault hf (faultRecorded_operand hi hc s)
  · exact h.accept hf ⟨i, hi, hn⟩

theorem hostStep_keeps_invariant {s : State} (h : Invariant s) (x : HostStep) : Invariant (hostStep x s) := by
  cases hp : s.phase with
  | idle =>
    have hf : s.fault = false := ((phase_idle_iff s).mp hp).1
    rcases hostStep_idle_cases x hp with
      ⟨_, e⟩ | ⟨_, r, e⟩ | ⟨a, _, ha, e⟩ | ⟨a, b, _, ha, e⟩ | ⟨a, b, _, ha, e⟩ | ⟨w, _, e⟩ <;> rw [e]
    · exact resetStep_invariant s
    · exact h.answer r
    · exact (h.enterFault hf (faultRecorded_bufferRange ha s)).answerUnspecifiedByte
    · exact (h.enterFault hf (faultRecorded_bufferRange ha s)).answer none
    · exact (h.storeByte ha b).answer none
    · exact (issue_keeps_invariant h hf w).answer none
  | busy =>
    rcases hostStep_busy_cases x hp with ⟨_, e⟩ | ⟨_, e⟩ | ⟨_, _, e | e | e⟩ <;> rw [e]
    · exact h.answer _
    · exact resetStep_invariant s
    · exact h.busyFault.answer none
    · exact h.busyFault.answerUnspecifiedByte
    · exact h.busyFault.answerUnspecifiedWord
  | faulted =>
    rcases hostStep_faulted_cases x hp with ⟨_, e⟩ | ⟨_, ⟨r, e⟩ | e⟩ <;> rw [e]
    · exact resetStep_invariant s
    · exact h.answer r
    · exact h.answerUnspecifiedByte

theorem hostMove_keeps_invariant {s : State} (h : Invariant s) : Invariant (hostMove s) := by
  rcases hostMove_cases s with ⟨_, e⟩ | ⟨rest, _, _, e⟩ | ⟨rest, _, _, e⟩ | ⟨x, rest, _, e⟩ <;> rw [e]
  · exact h.passTurn
  · exact h.passTurn.answer _
  · exact (h.passTurn.answer _).withHost rest
  · exact hostStep_keeps_invariant (h.passTurn.withHost rest) x

/-- What no command writes: the phase, the fault state, CMDR and the latency (R68). -/
structure SameControl (s t : State) : Prop where
  busy : t.busy = s.busy
  fault : t.fault = s.fault
  cause : t.cause = s.cause
  finfo : t.finfo = s.finfo
  cmdr : t.cmdr = s.cmdr
  delay : t.delay = s.delay

theorem SameControl.faultRecorded {s t : State} (c : SameControl s t) (h : FaultRecorded s) : FaultRecorded t := by
  unfold FaultRecorded at *
  rwa [c.cause, c.finfo, c.cmdr]

/-- An effect that leaves the control state has only BUF, PLEN and TXLEN to answer for. -/
theorem SameControl.invariant {s t : State} (c : SameControl s t) (h : Invariant s) (memory : Memory.wf t.buf)
    (plen : t.plen = s.plen ∨ t.plen.toNat ≤ 995)
    (txlen : t.txlen = s.txlen ∨ t.txlen = 5#10 ∨ t.txlen = 1000#10) : Invariant t where
  memory := memory
  phasesExclusive := by rw [c.fault, c.busy]; exact h.phasesExclusive
  noFault := by rw [c.fault, c.cause, c.finfo]; exact h.noFault
  faultRecorded := by rw [c.fault]; exact fun hf => c.faultRecorded (h.faultRecorded hf)
  inFlightLegal := by rw [c.busy, c.cmdr]; exact h.inFlightLegal
  lastAccepted := by rw [c.cmdr]; exact h.lastAccepted
  delayOnlyBusy := by rw [c.busy, c.delay]; exact h.delayOnlyBusy
  plenRange := by
    rw [c.cause]
    intro hc
    rcases plen with same | range
    · rw [same]; exact h.plenRange hc
    · exact range
  txlenValues := by
    rw [c.cause]
    intro hc
    rcases txlen with same | written
    · rw [same]; exact h.txlenValues hc
    · exact .inr written

theorem encodePacket_sameControl (n : Nat) (isFin : Bool) (s : State) :
    SameControl s (encodePacket pcodec n isFin s) := by
  constructor <;> simp

theorem decodePacket_sameControl (length : Nat) (s : State) : SameControl s (decodePacket pcodec length s) := by
  constructor <;> simp

theorem verifyPacket_sameControl (s : State) : SameControl s (verifyPacket pcodec s) := by
  constructor <;> simp

theorem makeAck_sameControl (positive : Bool) (s : State) : SameControl s (makeAck pcodec positive s) := by
  constructor <;> simp

theorem encodePacket_invariant {s : State} (h : Invariant s) {n : Nat} (hn : n ≤ 995) (isFin : Bool) :
    Invariant (encodePacket pcodec n isFin s) := by
  refine (encodePacket_sameControl n isFin s).invariant h ?_ (.inr ?_) (.inr (.inr ?_))
  · rw [encodePacket_buf]
    exact Memory.write4_wf _ (by decide) (framedBuffer_wf n isFin h.memory)
  · rwa [encodePacket_plen, lengthBits_toNat (by omega)]
  · rw [encodePacket_txlen, pcodec_bufSize, lengthBits]

theorem decodePacket_invariant {s : State} (h : Invariant s) {length : Nat} (hl : length ≤ 1000) :
    Invariant (decodePacket pcodec length s) := by
  refine (decodePacket_sameControl length s).invariant h ?_ (.inr ?_) (.inl (decodePacket_txlen ..))
  · rw [decodePacket_buf]
    exact h.memory
  · rw [decodePacket_plen, payloadLength, pcodec_hdrSize, lengthBits_toNat (by omega)]
    omega

theorem verifyPacket_invariant {s : State} (h : Invariant s) : Invariant (verifyPacket pcodec s) := by
  refine (verifyPacket_sameControl s).invariant h ?_ (.inl (verifyPacket_plen ..)) (.inl (verifyPacket_txlen ..))
  rw [verifyPacket_buf]
  exact h.memory

theorem makeAck_invariant {s : State} (h : Invariant s) (positive : Bool) :
    Invariant (makeAck pcodec positive s) := by
  refine (makeAck_sameControl positive s).invariant h ?_ (.inr ?_) (.inr (.inl ?_))
  · rw [makeAck_buf]
    exact Memory.write_wf _ (by decide) (Memory.write4_wf _ (by decide) h.memory)
  · rw [makeAck_plen, lengthBits_toNat (by decide)]
    exact Nat.zero_le _
  · rw [makeAck_txlen, pcodec_ackLen, lengthBits]

/-- A command whose operands pass keeps the invariant. -/
theorem exec_keeps_invariant {i : Instr} {s u : State} (h : Invariant s) (hi : operandFault pcodec i = none)
    (he : exec i s = .next u) : Invariant u := by
  cases i with
  | ckclr | ckput =>
    cases he
    exact h.setBuf (Memory.write4_wf _ (by decide) h.memory)
  | cksum =>
    cases he
    exact h.setAcc _
  | ckget =>
    cases he
    exact h.setChk _
  | issetAck f | issetFin f =>
    cases he
    exact h.setT _
  | verify =>
    cases he
    exact verifyPacket_invariant h
  | encode n isFin =>
    have hn := (operandFault_encode n isFin).mp hi
    cases (execEncode_of_pass hn isFin s).symm.trans he
    exact encodePacket_invariant h hn isFin
  | decode length =>
    have hl := (operandFault_decode length).mp hi
    cases (execDecode_of_pass hl s).symm.trans he
    exact decodePacket_invariant h hl.2
  | mkack positive =>
    cases he
    exact makeAck_invariant h positive

end Sys2Proof.Machine

namespace Sys2Proof.Proofs

open Sys2Proof.Machine Sys2Proof.Says

/-- Settles O44: every field is 0, no fault is taken and the memory is empty. -/
theorem resetSatisfiesInvariant : Obligations.ResetSatisfiesInvariant := reset_invariant

/-- Settles O45: the word a completion decodes is the legal one in flight, so its operands pass; every other step is the
host's turn. -/
theorem stepKeepsInvariant : Obligations.StepKeepsInvariant := by
  intro s t h hstep
  rcases step_cases hstep with ⟨turn, i, u, hi, hu, rfl⟩ | ⟨_, rfl⟩
  · have hbusy : s.busy = true := ((phase_busy_iff s).mp ((engineTurn_iff s).mp turn).1).2
    obtain ⟨j, hj, pass⟩ := h.inFlightLegal hbusy
    have hij : j = i := by simpa [hj] using hi
    exact (exec_keeps_invariant h (hij ▸ pass) hu).finish
  · exact hostMove_keeps_invariant h

end Sys2Proof.Proofs
end

section
/-! PROOFS of the family 10_state, part 3: the STATUS word, the REG space, Reset, and the packet in BUF as views. -/

namespace Sys2Proof.Machine

/-! ## The STATUS word bit by bit (R28) -/

theorem statusWord_busy (s : State) : (statusWord s).getLsbD 0 = s.busy := by
  simp [statusWord]

theorem statusWord_fault (s : State) : (statusWord s).getLsbD 1 = s.fault := by
  simp [statusWord]

theorem statusWord_valid (s : State) : (statusWord s).getLsbD 2 = s.valid := by
  simp [statusWord]

theorem statusWord_t (s : State) : (statusWord s).getLsbD 3 = s.t := by
  simp [statusWord]

/-- From bit 4 on the STATUS word is CAUSE, whose bits above its third are 0. -/
theorem statusWord_cause (s : State) (k : Nat) : (statusWord s).getLsbD (4 + k) = s.cause.getLsbD k := by
  have inWord : s.cause.getLsbD k = true → k < 3 := BitVec.lt_of_getLsbD
  simp only [statusWord, BitVec.getLsbD_or, BitVec.getLsbD_shiftLeft, BitVec.getLsbD_setWidth, BitVec.getLsbD_ofBool]
  grind

/-! ## The REG space (R34, R39) -/

theorem regValue_reset (r : RegNum) : regValue r State.reset = 0#32 := by
  decide +revert

/-- A Reset leaves the registers as State.reset has them; only BUF and the model's own fields differ. -/
theorem regValue_resetStep (r : RegNum) (s : State) : regValue r (resetStep s) = 0#32 :=
  (show regValue r (resetStep s) = regValue r State.reset from rfl).trans (regValue_reset r)

theorem regRead_reply_idle {s : State} (r : RegNum) (h : s.phase = .idle) :
    (regRead r s).reply = some (.word (regValue r s)) := by
  rw [regRead_held r (by simp [h]), State.answer_reply]

/-! ## Runs of bytes and four bytes -/

namespace Memory

/-- A word is its four bytes, the first the most significant. -/
theorem bytes_joined (v : Word) :
    ((v.extractLsb' 24 8).setWidth 32 <<< 24) ||| ((v.extractLsb' 16 8).setWidth 32 <<< 16) |||
      ((v.extractLsb' 8 8).setWidth 32 <<< 8) ||| (v.extractLsb' 0 8).setWidth 32 = v := by
  ext i hi
  simp only [BitVec.getElem_or, BitVec.getElem_shiftLeft, BitVec.getElem_setWidth,
    BitVec.getLsbD_extractLsb']
  grind

/-- Four bytes written and read back (R55, R56). -/
theorem read4_write4_same (m : Memory) (a : Nat) (v : Word) : read4 (write4 m a v) a = v := by
  have b0 : read (write4 m a v) a = v.extractLsb' 24 8 := by simp [read_write4]
  have b1 : read (write4 m a v) (a + 1) = v.extractLsb' 16 8 := by simp [read_write4]
  have b2 : read (write4 m a v) (a + 2) = v.extractLsb' 8 8 := by simp [read_write4]
  have b3 : read (write4 m a v) (a + 3) = v.extractLsb' 0 8 := by simp [read_write4]
  rw [read4, b0, b1, b2, b3, bytes_joined]

/-- Four bytes read depend on those four bytes alone. -/
theorem read4_congr {m m' : Memory} {a : Nat} (h : ∀ x, a ≤ x → x < a + 4 → read m x = read m' x) :
    read4 m a = read4 m' a := by
  simp only [read4, h a (by omega) (by omega), h (a + 1) (by omega) (by omega), h (a + 2) (by omega) (by omega),
    h (a + 3) (by omega) (by omega)]

theorem read4_write_ne {m : Memory} {a x : Nat} (b : Byte) (h : a + 4 ≤ x) :
    read4 (write m x b) a = read4 m a :=
  read4_congr fun _ _ _ => read_write_ne b (by omega)

end Memory

/-- Every byte of the buffer `ENCODE` checksums (R142). -/
theorem read_framedBuffer (n : Nat) (isFin : Bool) (m : Memory) (x : Nat) :
    Memory.read (framedBuffer pcodec n isFin m) x =
      if 5 + n ≤ x ∧ x < 1000 then 0x00#8
      else if x = 4 then finFlags pcodec isFin
      else if x < 4 then 0x00#8
      else Memory.read m x := by
  simp only [framedBuffer, Memory.read_fillFrom, Memory.read_write, Memory.read_write4, pcodec_ckOff, pcodec_flagOff,
    pcodec_payOff, pcodec_bufSize, pcodec_fill, BitVec.extractLsb'_zero]
  grind

/-- A byte beyond the checksum field is, after `ENCODE`, as in the buffer it checksummed. -/
theorem read_encodePacket_buf {x : Nat} (hx : 4 ≤ x) (n : Nat) (isFin : Bool) (s : State) :
    Memory.read (encodePacket pcodec n isFin s).buf x = Memory.read (framedBuffer pcodec n isFin s.buf) x := by
  rw [encodePacket_buf, Memory.read_write4, pcodec_ckOff]
  have h0 : x ≠ 0 := by omega
  have h1 : x ≠ 0 + 1 := by omega
  have h2 : x ≠ 0 + 2 := by omega
  have h3 : x ≠ 0 + 3 := by omega
  simp only [h0, h1, h2, h3, if_false]

end Sys2Proof.Machine

namespace Sys2Proof.Says

open Sys2Proof.Machine

theorem slice_eq_bytesFrom (s : State) (lo n : Nat) : Memory.slice s.buf lo n = bytesFrom s lo n := by
  simp [Memory.slice, bytesFrom, List.range'_eq_map_range]

theorem payload_eq_bytesFrom (s : State) : s.payload = bytesFrom s 5 s.plen.toNat := by
  rw [State.payload, pcodec_payOff, slice_eq_bytesFrom]

theorem datagram_eq_bytesFrom (s : State) : s.datagram = bytesFrom s 0 s.txlen.toNat :=
  slice_eq_bytesFrom s 0 _

theorem bytesFrom_congr {s t : State} {lo n : Nat} (h : ∀ x, lo ≤ x → x < lo + n → byte s x = byte t x) :
    bytesFrom s lo n = bytesFrom t lo n := by
  rw [← slice_eq_bytesFrom, ← slice_eq_bytesFrom]
  exact Memory.slice_congr h

/-! ## The packet as views (R40, R69) -/

theorem encodePacket_views {n : Nat} (hn : n ≤ 995) (isFin : Bool) (s : State) :
    (encodePacket pcodec n isFin s).datagram = bytesFrom (encodePacket pcodec n isFin s) 0 1000 ∧
    (encodePacket pcodec n isFin s).checksumField = (encodePacket pcodec n isFin s).acc ∧
    (encodePacket pcodec n isFin s).flagsByte = (if isFin then 0x02#8 else 0x00#8) ∧
    (encodePacket pcodec n isFin s).payload = bytesFrom s 5 n := by
  refine ⟨?_, ?_, ?_, ?_⟩
  · rw [datagram_eq_bytesFrom, encodePacket_txlen, pcodec_bufSize, lengthBits_toNat (by decide)]
  · rw [State.checksumField, encodePacket_buf, encodePacket_acc, Memory.read4_write4_same]
  · rw [State.flagsByte, pcodec_flagOff, read_encodePacket_buf (by decide), read_framedBuffer, if_neg (by omega),
      if_pos rfl, finFlags, pcodec_finMask]
  · rw [payload_eq_bytesFrom, encodePacket_plen, lengthBits_toNat (by omega)]
    refine bytesFrom_congr fun x h₁ h₂ => ?_
    rw [byte, read_encodePacket_buf (by omega), read_framedBuffer, if_neg (by omega), if_neg (by omega),
      if_neg (by omega)]

theorem makeAck_views (positive : Bool) (s : State) :
    (makeAck pcodec positive s).checksumField = 0#32 ∧ (makeAck pcodec positive s).payload = [] ∧
    (makeAck pcodec positive s).datagram =
      [0x00#8, 0x00#8, 0x00#8, 0x00#8, if positive then 0x01#8 else 0x00#8] := by
  refine ⟨?_, ?_, ?_⟩
  · rw [State.checksumField, makeAck_buf, pcodec_ckOff, pcodec_flagOff, Memory.read4_write_ne _ (by decide),
      Memory.read4_write4_same]
  · rw [payload_eq_bytesFrom, makeAck_plen, lengthBits_toNat (by decide)]
    rfl
  · rw [datagram_eq_bytesFrom, makeAck_txlen, pcodec_ackLen, lengthBits_toNat (by decide)]
    simp [bytesFrom, List.range_succ, byte, Memory.read_write, Memory.read_write4, ackFlags]

theorem decodePacket_views {length : Nat} (h : 5 ≤ length ∧ length ≤ 1000) (s : State) :
    (decodePacket pcodec length s).checksumField = (decodePacket pcodec length s).chk ∧
    (decodePacket pcodec length s).flagsByte = (decodePacket pcodec length s).flg ∧
    (decodePacket pcodec length s).payload = bytesFrom s 5 (length - 5) := by
  refine ⟨?_, ?_, ?_⟩
  · rw [State.checksumField, decodePacket_buf, decodePacket_chk]
  · rw [State.flagsByte, decodePacket_buf, decodePacket_flg]
  · rw [State.payload, decodePacket_buf, decodePacket_plen, payloadLength, pcodec_hdrSize, pcodec_payOff,
      lengthBits_toNat (by omega), slice_eq_bytesFrom]

end Sys2Proof.Says

namespace Sys2Proof.Proofs

open Sys2Proof.Machine Sys2Proof.Says

/-- Settles O30, bit by bit: a field is read back from where the word puts it, and above bit 6 lie only bits beyond CAUSE. -/
theorem statusWordHoldsItsFields : Obligations.StatusWordHoldsItsFields := by
  intro s
  refine ⟨statusWord_busy s, statusWord_fault s, statusWord_valid s, statusWord_t s, ?_, ?_⟩
  · refine BitVec.eq_of_getLsbD_eq fun i hi => ?_
    simp only [BitVec.getLsbD_extractLsb', hi, statusWord_cause, decide_true, Bool.true_and]
  · refine BitVec.eq_of_getLsbD_eq fun i hi => ?_
    have above : (statusWord s).getLsbD (7 + i) = false := by
      rw [show 7 + i = 4 + (3 + i) by omega, statusWord_cause]
      exact BitVec.getLsbD_of_ge _ _ (by omega)
    simp only [BitVec.getLsbD_extractLsb', above, Bool.and_false, BitVec.getLsbD_zero]

/-- Settles O31: in phase IDLE the gate is open, so a read answers the register and a write goes to the issue or nowhere. -/
theorem registerSpaceReadsAndIgnoresWrites : Obligations.RegisterSpaceReadsAndIgnoresWrites := by
  refine ⟨fun s hs => ?_, fun s v hs => regWrite_idle hs v, fun s r v hs hr => regWrite_ignored hs hr v,
    fun s r => ⟨?_, ?_⟩⟩
  · have held (r : RegNum) : hostStep (.regRead r) s = s.answer (some (.word (regValue r s))) :=
      regRead_held r (by simp [hs])
    exact ⟨held 0, held 1, held 2, held 3, held 4, held 5, held 6, held 7⟩
  · rw [← regValue_resetStep r s]
    exact regRead_reply_idle r rfl
  · rw [← regValue_reset r]
    exact regRead_reply_idle r rfl

/-- Settles O41: Reset differs from State.reset in BUF, of which each byte is its own free value, and in no register. -/
theorem resetClearsAllButTheBuffer : Obligations.ResetClearsAllButTheBuffer := by
  rintro s _ rfl
  have bytes : ∀ a, a < 1000 → byte (resetStep s) a = Config.freeBufByte s.draws a := fun a ha =>
    (Memory.read_unspecified pcodec s.draws a).trans (if_pos ha)
  have registers : SameSpecState (resetStep s) { State.reset with buf := (resetStep s).buf } :=
    { SameSpecState.refl (resetStep s) with }
  exact ⟨rfl, rfl, rfl, rfl, rfl, rfl, rfl, rfl, rfl, rfl, rfl, rfl, rfl, bytes, rfl, registers⟩

/-- Settles O27: each command's effect, view by view. -/
theorem wireViewOfThePacket : Obligations.WireViewOfThePacket := by
  refine ⟨fun s n isFin hn => ?_, fun s positive => ?_, fun s length h₁ h₂ => ?_⟩
  · exact ⟨_, execEncode_of_pass hn isFin s, encodePacket_views hn isFin s⟩
  · exact ⟨_, rfl, makeAck_views positive s⟩
  · exact ⟨_, execDecode_of_pass ⟨h₁, h₂⟩ s, decodePacket_views ⟨h₁, h₂⟩ s⟩

end Sys2Proof.Proofs
end

section
/-! PROOFS of the family 20_memory, part 1: single bytes and four bytes of BUF, and the host's accesses to them. -/

namespace Sys2Proof.Machine

namespace Memory

/-! ## Four bytes (R55, R56) -/

/-- A four-byte write leaves every byte outside its four alone. -/
theorem read_write4_outside {m : Memory} {a x : Nat} (v : Word) (h : x < a ∨ a + 3 < x) :
    read (write4 m a v) x = read m x := by
  rw [read_write4, if_neg (by omega), if_neg (by omega), if_neg (by omega), if_neg (by omega)]

/-- What a four-byte write puts into its four bytes does not depend on the memory. -/
theorem read_write4_inside {a x : Nat} (m m' : Memory) (v : Word) (h : a ≤ x ∧ x ≤ a + 3) :
    read (write4 m a v) x = read (write4 m' a v) x := by
  have : x = a ∨ x = a + 1 ∨ x = a + 2 ∨ x = a + 3 := by omega
  rcases this with rfl | rfl | rfl | rfl <;> simp [read_write4]

/-! ## The same write done twice (R60) -/

theorem erase_erase (m : Memory) (a : Nat) : (m.erase a).erase a = m.erase a := by
  simp [erase]

/-- An entry put in is taken out again. -/
theorem erase_insert (m : Memory) (a : Nat) (b : Byte) : (Memory.insert a b m).erase a = m.erase a := by
  induction m with
  | nil => simp [insert, erase]
  | cons cell m ih =>
    by_cases hlt : a < cell.1
    · simp [insert, hlt, erase]
    · simp only [insert, if_neg hlt]
      simp only [erase, List.filter_cons] at ih ⊢
      rw [ih]

theorem erase_write (m : Memory) (a : Nat) (b : Byte) : (m.write a b).erase a = m.erase a := by
  unfold write
  split
  · exact erase_erase m a
  · rw [erase_insert, erase_erase]

/-- In any memory, canonical or not. -/
theorem write_write_same (m : Memory) (a : Nat) (b : Byte) : (m.write a b).write a b = m.write a b := by
  rw [write, erase_write, ← write]

end Memory

end Sys2Proof.Machine

namespace Sys2Proof.Says

open Sys2Proof.Machine

/-! ## Four bytes as one word (R55) -/

theorem extractLsb'_bigEndian (b₀ b₁ b₂ b₃ : Byte) :
    (bigEndian b₀ b₁ b₂ b₃).extractLsb' 24 8 = b₀ ∧ (bigEndian b₀ b₁ b₂ b₃).extractLsb' 16 8 = b₁ ∧
    (bigEndian b₀ b₁ b₂ b₃).extractLsb' 8 8 = b₂ ∧ (bigEndian b₀ b₁ b₂ b₃).extractLsb' 0 8 = b₃ := by
  refine ⟨?_, ?_, ?_, ?_⟩
  all_goals
    ext i hi
    simp only [bigEndian, BitVec.getElem_extractLsb', BitVec.getLsbD_append]
    grind

theorem read4_eq_bigEndian (m : Memory) (a : Nat) :
    Memory.read4 m a =
      bigEndian (Memory.read m a) (Memory.read m (a + 1)) (Memory.read m (a + 2)) (Memory.read m (a + 3)) := by
  obtain ⟨h₀, h₁, h₂, h₃⟩ := extractLsb'_bigEndian (Memory.read m a) (Memory.read m (a + 1)) (Memory.read m (a + 2))
    (Memory.read m (a + 3))
  rw [← Memory.bytes_joined (bigEndian ..), h₀, h₁, h₂, h₃, Memory.read4]

end Sys2Proof.Says

namespace Sys2Proof.Machine

/-! ## A host's read that takes no fault answers and does nothing else (R53, R60) -/

/-- A read of a register takes its fault in phase BUSY alone, and never where it reads STATUS. -/
theorem regRead_answers {s : State} {r : RegNum} (h : s.phase ≠ .busy ∨ r = 1#3) :
    regRead r s = s.answer (some (.word (regValue r s))) := by
  rcases h with h | rfl
  · exact regRead_held r h
  · exact regRead_status s

theorem regRead_keeps_fault {s : State} {r : RegNum} (same : (regRead r s).fault = s.fault) :
    s.phase ≠ .busy ∨ r = 1#3 := by
  by_contra! h
  have notFaulted := ((phase_busy_iff s).mp h.1).1
  rw [regRead_busy h.1 h.2] at same
  simp [notFaulted] at same

/-- A read inside BUF gives the byte in every phase but BUSY. -/
theorem bufRead_inside {s : State} {a : BufAddr} (h : s.phase ≠ .busy) (ha : a.toNat ≤ 999) :
    bufRead a s = s.answer (some (.byte (Memory.read s.buf a.toNat))) := by
  have below : ¬ 1000 ≤ a.toNat := by omega
  cases hp : s.phase with
  | idle => rw [bufRead_idle hp, if_neg below]
  | busy => exact absurd hp h
  | faulted => rw [bufRead_faulted hp, if_neg below]

theorem bufRead_idle_beyond {s : State} {a : BufAddr} (h : s.phase = .idle) (ha : 999 < a.toNat) :
    bufRead a s = (s.enterFault .bufferRange (a.setWidth 32)).answerUnspecifiedByte := by
  rw [bufRead_idle h, if_pos (by omega)]

theorem bufRead_faulted_beyond {s : State} {a : BufAddr} (h : s.phase = .faulted) (ha : 999 < a.toNat) :
    bufRead a s = s.answerUnspecifiedByte := by
  rw [bufRead_faulted h, if_pos (by omega)]

/-- A read of BUF takes its fault in phase BUSY, and in phase IDLE beyond the buffer. -/
theorem bufRead_keeps_fault {s : State} {a : BufAddr} (same : (bufRead a s).fault = s.fault) :
    s.phase ≠ .busy ∧ (a.toNat ≤ 999 ∨ s.phase = .faulted) := by
  cases hp : s.phase with
  | idle =>
    have notFaulted := ((phase_idle_iff s).mp hp).1
    refine ⟨by simp, .inl ?_⟩
    by_contra! beyond
    rw [bufRead_idle_beyond hp beyond] at same
    simp [notFaulted] at same
  | busy =>
    have notFaulted := ((phase_busy_iff s).mp hp).1
    rw [bufRead_busy hp] at same
    simp [notFaulted] at same
  | faulted => exact ⟨by simp, .inr rfl⟩

theorem bufWrite_idle_inside {s : State} {a : BufAddr} (h : s.phase = .idle) (ha : a.toNat ≤ 999) (b : Byte) :
    bufWrite a b s = (s.storeByte a.toNat b).answer none := by
  rw [bufWrite_idle h, if_neg (by omega)]

theorem bufWrite_idle_beyond {s : State} {a : BufAddr} (h : s.phase = .idle) (ha : 999 < a.toNat) (b : Byte) :
    bufWrite a b s = (s.enterFault .bufferRange (a.setWidth 32)).answer none := by
  rw [bufWrite_idle h, if_pos (by omega)]

/-! ## The same access done twice (R60) -/

theorem regRead_twice {s : State} {r : RegNum} (h : s.phase ≠ .busy ∨ r = 1#3) :
    regRead r (regRead r s) = regRead r s := by
  have second := regRead_answers (s := s.answer (some (.word (regValue r s)))) h
  rw [regRead_answers h, second]
  rfl

theorem bufRead_twice {s : State} {a : BufAddr} (h : s.phase ≠ .busy) (ha : a.toNat ≤ 999) :
    bufRead a (bufRead a s) = bufRead a s := by
  have second := bufRead_inside (s := s.answer (some (.byte (Memory.read s.buf a.toNat)))) h ha
  rw [bufRead_inside h ha, second]
  rfl

theorem storeByte_answer_twice (a : Nat) (b : Byte) (s : State) :
    (((s.storeByte a b).answer none).storeByte a b).answer none = (s.storeByte a b).answer none := by
  simp only [State.storeByte, State.answer, Memory.write_write_same]

/-- After a write that faulted, the second one is discarded. -/
theorem bufWrite_of_faulted_answer {s : State} (h : s.phase = .faulted) (a : BufAddr) (b : Byte) :
    bufWrite a b (s.answer none) = s.answer none :=
  bufWrite_faulted (s := s.answer none) h a b

theorem bufWrite_twice (a : BufAddr) (b : Byte) (s : State) : bufWrite a b (bufWrite a b s) = bufWrite a b s := by
  cases hp : s.phase with
  | idle =>
    by_cases ha : a.toNat ≤ 999
    · have second := bufWrite_idle_inside (s := (s.storeByte a.toNat b).answer none) hp ha b
      rw [bufWrite_idle_inside hp ha, second, storeByte_answer_twice]
    · rw [bufWrite_idle_beyond hp (by omega)]
      exact bufWrite_of_faulted_answer rfl a b
  | busy =>
    rw [bufWrite_busy hp]
    exact bufWrite_of_faulted_answer (raiseFault_phase ..) a b
  | faulted =>
    rw [bufWrite_faulted hp]
    exact bufWrite_of_faulted_answer hp a b

end Sys2Proof.Machine

namespace Sys2Proof.Says

open Sys2Proof.Machine

/-! ## Faults and reads as the statements see them -/

/-- A write of the host that takes a precise fault. -/
theorem faulted_eq_enterFault (c : FaultCause) (w : Word) (s : State) :
    faulted c.code w s = (s.enterFault c w).answer none := rfl

theorem sameSpecState_faulted (c : FaultCause) (w : Word) (s : State) :
    SameSpecState (faulted c.code w s) (s.enterFault c w) := { SameSpecState.refl (s.enterFault c w) with }

/-- The byte a read inside BUF gives back in phase IDLE. -/
theorem bufRead_reply_idle {s : State} {a : BufAddr} (h : s.phase = .idle) (ha : a.toNat ≤ 999) :
    (hostStep (.bufRead a) s).reply = some (.byte (byte s a.toNat)) := by
  rw [hostStep, bufRead_inside (by simp [h]) ha, State.answer_reply]

end Sys2Proof.Says

namespace Sys2Proof.Proofs

open Sys2Proof.Machine Sys2Proof.Says

/-- Settles O6: a word is its four bytes, and a four-byte write is one byte at each of the four addresses. -/
theorem fourByteAccessIsBigEndian : Obligations.FourByteAccessIsBigEndian := by
  refine ⟨fun m a => ⟨read4_eq_bigEndian m a, rfl⟩, fun m a v => ⟨?_, ?_, ?_, ?_, fun x hx => ?_, ?_⟩, pcodec_ckOff⟩
  · simp [Memory.read_write4]
  · simp [Memory.read_write4]
  · simp [Memory.read_write4]
  · simp [Memory.read_write4]
  · exact Memory.read_write4_outside v hx
  · exact Memory.read4_write4_same m a v

/-- Settles O7: a write inside BUF in phase IDLE stores the byte and leaves the phase; `CKGET` joins the four bytes that
the reads give back. -/
theorem hostReadsTheLastWrite : Obligations.HostReadsTheLastWrite := by
  constructor
  · intro s a x b hp ha hx
    have stored : hostStep (.bufWrite a b) s = (s.storeByte a.toNat b).answer none := bufWrite_idle_inside hp ha b
    rw [stored, bufRead_reply_idle hp hx, bufRead_reply_idle (by simpa using hp) hx, byte, State.answer_buf,
      State.storeByte_buf, Memory.read_write]
    by_cases hxa : x = a
    · simp [hxa]
    · simp [hxa, BitVec.toNat_inj]
  · intro s b₀ b₁ b₂ b₃ hp h₀ h₁ h₂ h₃
    rw [bufRead_reply_idle hp (by decide), Option.some.injEq, Reply.byte.injEq] at h₀ h₁ h₂ h₃
    refine ⟨_, rfl, ?_⟩
    rw [← h₀, ← h₁, ← h₂, ← h₃]
    exact read4_eq_bigEndian s.buf 0

/-- Settles O33: the gate lets every read of STATUS through, and every read outside phase BUSY. -/
theorem statusMayBePolledInAnyPhase : Obligations.StatusMayBePolledInAnyPhase := by
  refine ⟨regRead_status, fun s r h => ?_, fun s r h hr => ?_⟩
  · exact regRead_held r (by rcases h with h | h <;> simp [h])
  · have busyFault : hostStep (.regRead r) s = (raiseFault .busyFault s.cmdr s).answerUnspecifiedWord :=
      regRead_busy h hr
    rw [busyFault]
    exact ⟨rfl, rfl, rfl, _, rfl⟩

/-- Settles O32, phase by phase, on both sides of the buffer's end. -/
theorem bufferAccessByPhase : Obligations.BufferAccessByPhase := by
  refine ⟨fun s a hp ha => ?_, fun s a hp ha => ?_, fun s a hp => ?_, fun s a b hp ha => ?_, fun s a b hp ha => ?_,
    fun s a b hp => ?_, fun s a b hp => ?_⟩
  · exact bufRead_inside (by simp [hp]) ha
  · have beyond : hostStep (.bufRead a) s = _ := bufRead_idle_beyond hp ha
    rw [beyond]
    exact ⟨(sameSpecState_faulted .bufferRange _ s).trans (sameSpecState_answerUnspecifiedByte _), _, rfl⟩
  · refine ⟨hostStep_faulted_sameSpecState hp (by simp), ?_, fun ha => ?_⟩
    · by_cases ha : a.toNat ≤ 999
      · exact ⟨_, congrArg State.reply (bufRead_inside (by simp [hp]) ha)⟩
      · exact ⟨_, congrArg State.reply (bufRead_faulted_beyond hp (by omega))⟩
    · exact congrArg State.reply (bufRead_inside (by simp [hp]) ha)
  · exact ⟨_, bufWrite_idle_inside hp ha b, fun x => Memory.read_write s.buf a.toNat x b, rfl⟩
  · exact bufWrite_idle_beyond hp ha b
  · exact bufWrite_faulted hp a b
  · have read : hostStep (.bufRead a) s = _ := bufRead_busy hp a
    have write : hostStep (.bufWrite a b) s = _ := bufWrite_busy hp a b
    rw [read, write]
    exact ⟨⟨_, rfl⟩, rfl, rfl, rfl, rfl, rfl, rfl⟩

/-- Settles O43: a read that takes no fault only answers, so the next one answers the same. -/
theorem readsHaveNoSideEffect : Obligations.ReadsHaveNoSideEffect := by
  refine ⟨fun s r same => ?_, fun s a same => ?_, fun s a b => bufWrite_twice a b s⟩
  · have opened := regRead_keeps_fault same
    refine ⟨?_, congrArg State.reply (regRead_twice opened)⟩
    rw [hostStep, regRead_answers opened]
    exact sameSpecState_answer _ s
  · obtain ⟨notBusy, place⟩ := bufRead_keeps_fault same
    refine ⟨?_, fun inside => congrArg State.reply (bufRead_twice notBusy inside)⟩
    rcases place with inside | frozen
    · rw [hostStep, bufRead_inside notBusy inside]
      exact sameSpecState_answer _ s
    · exact hostStep_faulted_sameSpecState frozen (by simp)

end Sys2Proof.Proofs
end

section
/-! PROOFS of the family 20_memory, part 2: the issue of a command word (R54) and the operand check. -/

namespace Sys2Proof

/-- A word that no row of R88 covers decodes to no command (R91). -/
theorem decode_error_of_uncovered {w : Word} (h : ∀ r ∈ rows, w &&& r.mask ≠ r.pattern) :
    ∃ e, decode w = .error e := by
  have none : rows.find? (·.covers w) = none := by
    rw [List.find?_eq_none]
    exact fun r hr => by simpa [Row.covers] using h r hr
  exact ⟨illegalReason w, by rw [decode, none]⟩

end Sys2Proof

namespace Sys2Proof.Machine

/-! ## The three answers of an issue (R54) -/

theorem issue_of_illegal {w : Word} (h : ∃ e, decode w = .error e) (s : State) :
    issue w s = s.enterFault .illegalCommand w := by
  obtain ⟨e, he⟩ := h
  rcases issue_cases w s with ⟨_, answer⟩ | ⟨i, c, hi, _⟩ | ⟨i, hi, _⟩
  · exact answer
  · simp [he] at hi
  · simp [he] at hi

theorem issue_of_operandFault {w : Word} {i : Instr} {c : FaultCause} (hi : decode w = .ok i)
    (hc : operandFault pcodec i = some c) (s : State) : issue w s = s.enterFault c w := by
  simp [issue, hi, hc, raiseFault_precise (operandFault_precise hc)]

theorem issue_of_pass {w : Word} {i : Instr} (hi : decode w = .ok i) (pass : operandFault pcodec i = none) (s : State) :
    issue w s = s.accept w := by
  simp [issue, hi, pass]

/-! ## The operand check (R183, R184) -/

theorem operandFault_encode_over {n : Nat} (h : 995 < n) (isFin : Bool) :
    operandFault pcodec (.encode n isFin) = some .capacityFault := by
  simp [operandFault, h]

theorem operandFault_decode_outside {length : Nat} (h : length < 5 ∨ 1000 < length) :
    operandFault pcodec (.decode length) = some .lengthFault := by
  simp [operandFault, h]

/-- The operands pass when each of the two commands with a checked operand has it in its range. -/
theorem operandFault_none_of_ranges {i : Instr} (encode : ∀ n isFin, i = .encode n isFin → n ≤ 995)
    (decode : ∀ length, i = .decode length → 5 ≤ length ∧ length ≤ 1000) : operandFault pcodec i = none := by
  cases i with
  | encode n isFin => exact (operandFault_encode n isFin).mpr (encode n isFin rfl)
  | decode length => exact (operandFault_decode length).mpr (decode length rfl)
  | _ => rfl

theorem accept_phase {s : State} (h : s.phase = .idle) (w : Word) : (s.accept w).phase = .busy := by
  have notFaulted := ((phase_idle_iff s).mp h).1
  exact (phase_busy_iff _).mpr ⟨notFaulted, rfl⟩

end Sys2Proof.Machine

namespace Sys2Proof.Says

open Sys2Proof.Machine

theorem sameSpecState_accept (w : Word) (s : State) :
    SameSpecState { s with cmdr := w, busy := true } (s.accept w) := { SameSpecState.refl (s.accept w) with }

/-- A word whose issue faults precisely is rejected with that cause. -/
theorem rejectedAs_of_issue {c : FaultCause} {w : Word} (h : ∀ s, issue w s = s.enterFault c w) :
    RejectedAs c.code w := by
  intro s hp
  rw [hostStep, regWrite_idle hp, h, faulted_eq_enterFault]

theorem rejectedAs_illegal {w : Word} (h : ∃ e, decode w = .error e) : RejectedAs 1#3 w :=
  rejectedAs_of_issue (issue_of_illegal h)

theorem rejectedAs_operandFault {w : Word} {i : Instr} {c : FaultCause} (hi : decode w = .ok i)
    (hc : operandFault pcodec i = some c) : RejectedAs c.code w :=
  rejectedAs_of_issue (issue_of_operandFault hi hc)

end Sys2Proof.Says

namespace Sys2Proof.Proofs

open Sys2Proof.Machine Sys2Proof.Says

/-- Settles O34: the gate by phase, then the checks of the issue in their order. -/
theorem commandIssueByPhase : Obligations.CommandIssueByPhase := by
  refine ⟨fun s r v hp => regWrite_faulted hp r v, fun s r v hp => ?_, fun s r v hp hr => regWrite_ignored hp hr v,
    fun w uncovered => rejectedAs_illegal (decode_error_of_uncovered uncovered),
    fun w n isFin hw hn => rejectedAs_operandFault hw (operandFault_encode_over hn isFin),
    fun w length hw hl => rejectedAs_operandFault hw (operandFault_decode_outside hl),
    fun w i s hw encode decode hp => ?_⟩
  · have busyFault : hostStep (.regWrite r v) s = _ := regWrite_busy hp r v
    rw [busyFault]
    exact ⟨rfl, rfl, rfl⟩
  · have accepted : hostStep (.regWrite 0#3 w) s = (s.accept w).answer none := by
      rw [hostStep, regWrite_idle hp, issue_of_pass hw (operandFault_none_of_ranges encode decode)]
    rw [accepted]
    exact ⟨accept_phase hp w, (sameSpecState_accept w s).trans (sameSpecState_answer none _)⟩

/-- Settles O49: the check `exec` makes again finds the operand's fault, which is precise. -/
theorem operandOutOfRangeTakesItsFault : Obligations.OperandOutOfRangeTakesItsFault :=
  ⟨fun _ _ isFin hn => checked_of_fault (operandFault_encode_over hn isFin),
    fun _ _ hl => checked_of_fault (operandFault_decode_outside hl)⟩

end Sys2Proof.Proofs
end

section
/-! PROOFS of the family 20_memory, part 3: the footprint of every command (R68). -/

namespace Sys2Proof.Machine

/-! ## The effect of a command whose operands pass -/

/-- The next state of a command whose operands pass their check (`exec_of_pass`). It takes the configuration, as the packet
operations do: for a checksum function that is a variable, nothing compares checksums by evaluation. -/
def effect (P : Config) : Instr → State → State
  | .ckclr, s => { s with buf := Memory.write4 s.buf P.ckOff 0#32 }
  | .cksum, s => { s with acc := bufCrc P s.buf }
  | .ckput, s => { s with buf := Memory.write4 s.buf P.ckOff s.acc }
  | .ckget, s => { s with chk := Memory.read4 s.buf P.ckOff }
  | .encode n isFin, s => encodePacket P n isFin s
  | .decode length, s => decodePacket P length s
  | .verify, s => verifyPacket P s
  | .issetAck f, s => { s with t := isSet f P.ackMask }
  | .issetFin f, s => { s with t := isSet f P.finMask }
  | .mkack positive, s => makeAck P positive s

theorem exec_of_pass {i : Instr} (pass : operandFault pcodec i = none) (s : State) :
    exec i s = .next (effect pcodec i s) := by
  cases i with
  | encode n isFin => exact checked_of_pass pass
  | decode length => exact checked_of_pass pass
  | _ => rfl

theorem effect_cksum_acc (P : Config) (s : State) : (effect P .cksum s).acc = bufCrc P s.buf := rfl

/-- `CKSUM` and the commands that only read leave BUF as it is. -/
theorem effect_keeps_buf (P : Config) {i : Instr} (h : ∀ a, Says.writesByte i a = false) (s : State) :
    (effect P i s).buf = s.buf := by
  cases i with
  | ckclr | ckput | encode | mkack => exact absurd (h 0) (by simp [Says.writesByte])
  | _ => rfl

end Sys2Proof.Machine

namespace Sys2Proof.Says

open Sys2Proof.Machine

/-! ## The two halves of the footprint table (R68) -/

/-- What the table does not give as written is as it was; `rest` speaks of everything no column names. -/
structure KeepsUnwritten (i : Instr) (s t : State) : Prop where
  bytes : ∀ a, writesByte i a = false → byte t a = byte s a
  acc : writesAcc i = false → t.acc = s.acc
  chk : writesChk i = false → t.chk = s.chk
  flg : writesFlg i = false → t.flg = s.flg
  plen : writesPlen i = false → t.plen = s.plen
  txlen : writesTxlen i = false → t.txlen = s.txlen
  valid : writesValid i = false → t.valid = s.valid
  tFlag : writesT i = false → t.t = s.t
  rest : t = { s with buf := t.buf, acc := t.acc, chk := t.chk, flg := t.flg, plen := t.plen, txlen := t.txlen,
                      valid := t.valid, t := t.t }

/-- Two states agree on what the table gives as read. -/
structure AgreeOnRead (i : Instr) (s s' : State) : Prop where
  bytes : ∀ a, readsByte i a = true → byte s a = byte s' a
  acc : readsAcc i = true → s.acc = s'.acc

/-- Two states agree on what the table gives as written. -/
structure AgreeOnWritten (i : Instr) (t t' : State) : Prop where
  bytes : ∀ a, writesByte i a = true → byte t a = byte t' a
  acc : writesAcc i = true → t.acc = t'.acc
  chk : writesChk i = true → t.chk = t'.chk
  flg : writesFlg i = true → t.flg = t'.flg
  plen : writesPlen i = true → t.plen = t'.plen
  txlen : writesTxlen i = true → t.txlen = t'.txlen
  valid : writesValid i = true → t.valid = t'.valid
  tFlag : writesT i = true → t.t = t'.t

theorem KeepsUnwritten.sameControl {i : Instr} {s t : State} (k : KeepsUnwritten i s t) : SameControl s t where
  busy := by rw [k.rest]
  fault := by rw [k.rest]
  cause := by rw [k.rest]
  finfo := by rw [k.rest]
  cmdr := by rw [k.rest]
  delay := by rw [k.rest]

theorem KeepsUnwritten.host {i : Instr} {s t : State} (k : KeepsUnwritten i s t) : t.host = s.host := by
  rw [k.rest]

/-! ## Bytes of the three writing effects -/

/-- The checksum field is `BUF[0..3]`. -/
theorem read_writeField_beyond {m : Memory} {a : Nat} (v : Word) (h : 3 < a) :
    Memory.read (Memory.write4 m pcodec.ckOff v) a = Memory.read m a :=
  Memory.read_write4_outside v (.inr h)

theorem read_writeField_inside {a : Nat} (m m' : Memory) (v : Word) (h : a ≤ 3) :
    Memory.read (Memory.write4 m pcodec.ckOff v) a = Memory.read (Memory.write4 m' pcodec.ckOff v) a :=
  Memory.read_write4_inside m m' v ⟨Nat.zero_le a, h⟩

theorem byte_encodePacket_payload {a n : Nat} (h : ¬ (a ≤ 4 ∨ 5 + n ≤ a ∧ a ≤ 999)) (isFin : Bool) (s : State) :
    byte (encodePacket pcodec n isFin s) a = byte s a := by
  rw [byte, read_encodePacket_buf (by omega), read_framedBuffer, if_neg (by omega), if_neg (by omega), if_neg (by omega)]

theorem byte_makeAck_beyond {a : Nat} (h : 4 < a) (positive : Bool) (s : State) :
    byte (makeAck pcodec positive s) a = byte s a := by
  rw [byte, makeAck_buf, Memory.read_write_ne _ (by rw [pcodec_flagOff]; omega), read_writeField_beyond _ (by omega)]

/-- The buffer `ENCODE` checksums depends on the payload alone. -/
theorem read_framedBuffer_congr {n : Nat} {m m' : Memory} (h : ∀ a, 5 ≤ a → a < 5 + n → Memory.read m a = Memory.read m' a)
    (isFin : Bool) {x : Nat} (hx : x < 1000) :
    Memory.read (framedBuffer pcodec n isFin m) x = Memory.read (framedBuffer pcodec n isFin m') x := by
  rw [read_framedBuffer, read_framedBuffer]
  by_cases hp : 5 ≤ x ∧ x < 5 + n
  · rw [h x hp.1 hp.2]
  · grind

/-! ## What is not written is kept -/

theorem effect_keeps_byte {i : Instr} {a : Nat} (h : writesByte i a = false) (s : State) :
    byte (effect pcodec i s) a = byte s a := by
  cases i with
  | ckclr => exact read_writeField_beyond (m := s.buf) 0#32 (by simpa [writesByte] using h)
  | ckput => exact read_writeField_beyond (m := s.buf) s.acc (by simpa [writesByte] using h)
  | encode n isFin => exact byte_encodePacket_payload (by simpa [writesByte] using h) isFin s
  | mkack positive => exact byte_makeAck_beyond (by simpa [writesByte] using h) positive s
  | _ => rw [byte, effect_keeps_buf pcodec fun _ => rfl]

theorem effect_rest (P : Config) (i : Instr) (s : State) :
    effect P i s = { s with
      buf := (effect P i s).buf, acc := (effect P i s).acc, chk := (effect P i s).chk, flg := (effect P i s).flg,
      plen := (effect P i s).plen, txlen := (effect P i s).txlen, valid := (effect P i s).valid, t := (effect P i s).t } := by
  cases i <;> rfl

theorem effect_keeps_registers (P : Config) (i : Instr) (s : State) :
    (writesAcc i = false → (effect P i s).acc = s.acc) ∧ (writesChk i = false → (effect P i s).chk = s.chk) ∧
    (writesFlg i = false → (effect P i s).flg = s.flg) ∧ (writesPlen i = false → (effect P i s).plen = s.plen) ∧
    (writesTxlen i = false → (effect P i s).txlen = s.txlen) ∧
    (writesValid i = false → (effect P i s).valid = s.valid) ∧ (writesT i = false → (effect P i s).t = s.t) := by
  cases i <;> simp [effect, writesAcc, writesChk, writesFlg, writesPlen, writesTxlen, writesValid, writesT]

theorem effect_keepsUnwritten (i : Instr) (s : State) : KeepsUnwritten i s (effect pcodec i s) := by
  obtain ⟨acc, chk, flg, plen, txlen, valid, tFlag⟩ := effect_keeps_registers pcodec i s
  exact ⟨fun _ h => effect_keeps_byte h s, acc, chk, flg, plen, txlen, valid, tFlag, effect_rest pcodec i s⟩

/-! ## What is written depends on what is read -/

section
variable {i : Instr} {s s' : State} (agree : AgreeOnRead i s s')
include agree

/-- The checksum a command writes to ACC is of bytes it reads, or of the packet it frames. -/
theorem effect_acc_agree (h : writesAcc i = true) : (effect pcodec i s).acc = (effect pcodec i s').acc := by
  cases i with
  | cksum =>
    rw [effect_cksum_acc, effect_cksum_acc]
    exact Memory.bufCrc_pcodec_congr fun a h₁ h₂ => agree.bytes a (decide_eq_true ⟨by omega, by omega⟩)
  | encode n isFin =>
    rw [effect, effect, encodePacket_acc, encodePacket_acc]
    exact Memory.bufCrc_pcodec_congr fun a _ ha =>
      read_framedBuffer_congr (fun x h₁ h₂ => agree.bytes x (decide_eq_true ⟨h₁, h₂⟩)) isFin ha
  | verify =>
    rw [effect, effect, verifyPacket_acc, verifyPacket_acc]
    exact Memory.bufCrc_pcodec_congr fun a h₁ h₂ => agree.bytes a (decide_eq_true (by omega))
  | _ => cases h

/-- CHK is the checksum field, which every command that writes CHK reads. -/
theorem effect_chk_agree (h : writesChk i = true) : (effect pcodec i s).chk = (effect pcodec i s').chk := by
  have chk (r : State) : (effect pcodec i r).chk = Memory.read4 r.buf pcodec.ckOff := by
    cases i with
    | ckget | decode | verify => rfl
    | _ => cases h
  rw [chk, chk]
  refine Memory.read4_congr fun a _ ha => agree.bytes a ?_
  rw [pcodec_ckOff] at ha
  cases i with
  | ckget | decode | verify => exact decide_eq_true (by omega)
  | _ => cases h

theorem effect_flg_agree (h : writesFlg i = true) : (effect pcodec i s).flg = (effect pcodec i s').flg := by
  cases i with
  | decode length =>
    rw [effect, effect, decodePacket_flg, decodePacket_flg]
    exact agree.bytes 4 rfl
  | _ => cases h

theorem effect_valid_agree (h : writesValid i = true) : (effect pcodec i s).valid = (effect pcodec i s').valid := by
  cases i with
  | verify =>
    have acc := effect_acc_agree agree rfl
    have chk := effect_chk_agree agree rfl
    simp only [effect, verifyPacket_acc, verifyPacket_chk] at acc chk
    rw [effect, effect, verifyPacket_valid, verifyPacket_valid, acc, chk]
  | _ => cases h

/-- A byte a command writes: of its own, of ACC, or of the packet it frames. -/
theorem effect_byte_agree {a : Nat} (h : writesByte i a = true) :
    byte (effect pcodec i s) a = byte (effect pcodec i s') a := by
  cases i with
  | ckclr => exact read_writeField_inside s.buf s'.buf 0#32 (by simpa [writesByte] using h)
  | ckput =>
    have acc : s.acc = s'.acc := agree.acc rfl
    rw [byte, byte, effect, effect, acc]
    exact read_writeField_inside s.buf s'.buf s'.acc (by simpa [writesByte] using h)
  | encode n isFin =>
    have inBuf : a < 1000 := by simp [writesByte] at h; omega
    by_cases field : a ≤ 3
    · have acc := effect_acc_agree agree rfl
      simp only [effect, encodePacket_acc] at acc
      rw [byte, byte, effect, effect, encodePacket_buf, encodePacket_buf, acc]
      exact read_writeField_inside _ _ _ field
    · rw [byte, byte, effect, effect, read_encodePacket_buf (by omega), read_encodePacket_buf (by omega)]
      exact read_framedBuffer_congr (fun x h₁ h₂ => agree.bytes x (decide_eq_true ⟨h₁, h₂⟩)) isFin inBuf
  | mkack positive =>
    have header : a ≤ 4 := by simpa [writesByte] using h
    rw [byte, byte, effect, effect, makeAck_buf, makeAck_buf, Memory.read_write, Memory.read_write]
    by_cases flags : a = pcodec.flagOff
    · rw [if_pos flags, if_pos flags]
    · rw [if_neg flags, if_neg flags]
      rw [pcodec_flagOff] at flags
      exact read_writeField_inside _ _ _ (by omega)
  | _ => cases h

/-- PLEN, TXLEN and T are written from the operands alone. -/
theorem effect_agreeOnWritten : AgreeOnWritten i (effect pcodec i s) (effect pcodec i s') where
  bytes _ h := effect_byte_agree agree h
  acc := effect_acc_agree agree
  chk := effect_chk_agree agree
  flg := effect_flg_agree agree
  plen h := by
    cases i with
    | encode | decode | mkack => rfl
    | _ => cases h
  txlen h := by
    cases i with
    | encode | mkack => rfl
    | _ => cases h
  valid := effect_valid_agree agree
  tFlag h := by
    cases i with
    | issetAck | issetFin => rfl
    | _ => cases h

end

end Sys2Proof.Says

namespace Sys2Proof.Proofs

open Sys2Proof.Machine Sys2Proof.Says

/-- Settles O24: the two halves of the table for the effect of each command; a completion ends in `finish`. -/
theorem commandsKeepTheirFootprint : Obligations.CommandsKeepTheirFootprint := by
  refine ⟨fun i s pass => ?_, fun i s s' t t' pass hs hs' bytes acc => ?_, fun i s t completes hstep => ?_⟩
  · obtain ⟨bytes, acc, chk, flg, plen, txlen, valid, tFlag, rest⟩ := effect_keepsUnwritten i s
    exact ⟨_, exec_of_pass pass s, bytes, acc, chk, flg, plen, txlen, valid, tFlag, rest⟩
  · cases (exec_of_pass pass s).symm.trans hs
    cases (exec_of_pass pass s').symm.trans hs'
    obtain ⟨bytes, acc, chk, flg, plen, txlen, valid, tFlag⟩ := effect_agreeOnWritten ⟨bytes, acc⟩
    exact ⟨bytes, acc, chk, flg, plen, txlen, valid, tFlag⟩
  · rcases step_cases hstep with ⟨_, _, u, _, _, rfl⟩ | ⟨turn, _⟩
    · exact State.finish_busy u
    · simp [completes.1] at turn

end Sys2Proof.Proofs
end

section
/-! PROOFS of the family 20_memory, part 4: a script's command and `WAIT`, from the issue to the last STATUS read. -/

namespace Sys2Proof

/-! ## The word of a command decodes to it (R91) -/

/-- Any two rows of R88 differ in a bit that both fix. -/
theorem rows_differ_in_fixed_bit :
    rows.Pairwise fun r r' => (r.mask &&& r'.mask) &&& (r.pattern ^^^ r'.pattern) ≠ 0#32 := by
  decide

/-- So no two rows cover one word (R88). -/
theorem rows_pairwise_exclusive (w : Word) :
    rows.Pairwise fun r r' => ¬ (w &&& r.mask = r.pattern ∧ w &&& r'.mask = r'.pattern) := by
  refine rows_differ_in_fixed_bit.imp fun {r r'} differ both => differ ?_
  obtain ⟨h, h'⟩ := both
  rw [← h, ← h']
  ext k hk
  simp only [BitVec.getElem_and, BitVec.getElem_xor, BitVec.getElem_zero]
  grind

theorem covering_row_unique {r r' : Row} {w : Word} (hr : r ∈ rows) (hr' : r' ∈ rows) (h : w &&& r.mask = r.pattern)
    (h' : w &&& r'.mask = r'.pattern) : r = r' := by
  by_contra ne
  have symmetric : Std.Symm fun r r' : Row => ¬ (w &&& r.mask = r.pattern ∧ w &&& r'.mask = r'.pattern) :=
    ⟨fun _ _ exclusive both => exclusive both.symm⟩
  exact (rows_pairwise_exclusive w).forall hr hr' ne ⟨h, h'⟩

theorem decode_of_covering_row {r : Row} {w : Word} (hr : r ∈ rows) (h : w &&& r.mask = r.pattern) :
    decode w = .ok (r.read w) := by
  have covered : (rows.find? (·.covers w)).isSome := by
    rw [List.find?_isSome]
    exact ⟨r, hr, by simpa [Row.covers] using h⟩
  obtain ⟨r', found⟩ := Option.isSome_iff_exists.mp covered
  have h' : w &&& r'.mask = r'.pattern := by simpa [Row.covers] using List.find?_some found
  rw [decode, found, covering_row_unique (List.mem_of_find?_eq_some found) hr h' h]

theorem encodesItsRow (i : Instr) : Laws.EncodesItsRow.Statement i := by
  cases i with
  | ckclr => exact Laws.EncodesItsRow.ckclr
  | cksum => exact Laws.EncodesItsRow.cksum
  | ckput => exact Laws.EncodesItsRow.ckput
  | ckget => exact Laws.EncodesItsRow.ckget
  | encode n isFin => exact Laws.EncodesItsRow.encode n isFin
  | decode length => exact Laws.EncodesItsRow.decode length
  | verify => exact Laws.EncodesItsRow.verify
  | issetAck f => exact Laws.EncodesItsRow.issetAck f
  | issetFin f => exact Laws.EncodesItsRow.issetFin f
  | mkack positive => exact Laws.EncodesItsRow.mkack positive

theorem decode_encode {i : Instr} (h : i.wellFormed = true) : decode (encode i) = .ok i := by
  obtain ⟨r, hr, covers, reads⟩ := encodesItsRow i h
  rw [decode_of_covering_row hr covers, reads]

end Sys2Proof

namespace Sys2Proof.Machine

/-! ## The host's turn, line by line (R94) -/

theorem hostMove_act {s : State} {h : HostStep} {rest : List HostItem} (hh : s.host = .act h :: rest) :
    hostMove s = hostStep h (s.passTurn.withHost rest) := by
  rw [hostMove, hh]

theorem hostMove_wait_busy {s : State} {rest : List HostItem} (hh : s.host = .wait :: rest) (hb : s.busy = true) :
    hostMove s = s.passTurn.answer (some (.word (statusWord s))) := by
  rcases hostMove_cases s with ⟨e, _⟩ | ⟨_, _, _, poll⟩ | ⟨_, _, idle, _⟩ | ⟨_, _, e, _⟩
  · simp [hh] at e
  · exact poll
  · simp [hb] at idle
  · simp [hh] at e

theorem hostMove_wait_done {s : State} {rest : List HostItem} (hh : s.host = .wait :: rest) (hb : s.busy = false) :
    hostMove s = (s.passTurn.answer (some (.word (statusWord s)))).withHost rest := by
  rcases hostMove_cases s with ⟨e, _⟩ | ⟨_, _, busy, _⟩ | ⟨_, e, _, poll⟩ | ⟨_, _, e, _⟩
  · simp [hh] at e
  · simp [hb] at busy
  · cases hh.symm.trans e
    exact poll
  · simp [hh] at e

theorem step_of_idle {s : State} (h : s.phase = .idle) : step s = .next (hostMove s) :=
  step_host (Says.engineTurn_of_not_busy (by simp [h]))

end Sys2Proof.Machine

namespace Sys2Proof.Says

open Sys2Proof.Machine

/-! ## A command's effect on the same spec state (R20, R68) -/

theorem SameSpecState.agreeOnRead {s s' : State} (h : SameSpecState s s') (i : Instr) : AgreeOnRead i s s' :=
  ⟨fun a _ => (h.bytes a).symm, fun _ => h.acc.symm⟩

/-- A piece of the state that is kept or written by the same command is the same afterwards. -/
theorem same_of_kept_or_written {α : Type} {written : Bool} {x x' y y' : α} (kept : written = false → y = x)
    (kept' : written = false → y' = x') (agree : written = true → y = y') (same : x' = x) : y' = y := by
  cases written with
  | true => exact (agree rfl).symm
  | false => rw [kept rfl, kept' rfl, same]

/-- What a command does is a function of the spec's state: the footprint table covers all of it. -/
theorem SameSpecState.effect {s s' : State} (h : SameSpecState s s') (i : Instr) :
    SameSpecState (effect pcodec i s) (effect pcodec i s') :=
  have k := effect_keepsUnwritten i s
  have k' := effect_keepsUnwritten i s'
  have w := effect_agreeOnWritten (h.agreeOnRead i)
  have c := k.sameControl
  have c' := k'.sameControl
  { bytes := fun a => same_of_kept_or_written (k.bytes a) (k'.bytes a) (w.bytes a) (h.bytes a)
    acc := same_of_kept_or_written k.acc k'.acc w.acc h.acc
    chk := same_of_kept_or_written k.chk k'.chk w.chk h.chk
    flg := same_of_kept_or_written k.flg k'.flg w.flg h.flg
    plen := same_of_kept_or_written k.plen k'.plen w.plen h.plen
    txlen := same_of_kept_or_written k.txlen k'.txlen w.txlen h.txlen
    valid := same_of_kept_or_written k.valid k'.valid w.valid h.valid
    tFlag := same_of_kept_or_written k.tFlag k'.tFlag w.tFlag h.tFlag
    finfo := by rw [c.finfo, c'.finfo, h.finfo]
    cmdr := by rw [c.cmdr, c'.cmdr, h.cmdr]
    busy := by rw [c.busy, c'.busy, h.busy]
    fault := by rw [c.fault, c'.fault, h.fault]
    cause := by rw [c.cause, c'.cause, h.cause] }

theorem SameSpecState.finish {s t : State} (h : SameSpecState s t) : SameSpecState { s with busy := false } t.finish :=
  { h with busy := rfl }

theorem SameSpecState.issued {s t : State} (h : SameSpecState s t) (w : Word) :
    SameSpecState { s with cmdr := w, busy := true } { t with cmdr := w, busy := true } :=
  { h with cmdr := rfl, busy := rfl }

/-! ## Runs of a script -/

/-- A `WAIT` while the latency runs: one poll per turn, until the command is due. -/
theorem run_wait {k : Nat} {s : State} {rest : List HostItem} (hp : s.phase = .busy) (hd : s.delay = k)
    (hh : s.host = .wait :: rest) :
    ∃ t : State, (∀ n, Host.Core.run core (k + n) s = Host.Core.run core n t) ∧
      SameSpecState s t ∧ t.delay = 0 ∧ t.host = .wait :: rest := by
  induction k generalizing s with
  | zero => exact ⟨s, fun n => by rw [Nat.zero_add], SameSpecState.refl s, hd, hh⟩
  | succ k ih =>
    have turn : step s = .next (hostMove s) := step_host (by simp [engineTurn, hd])
    have poll := hostMove_wait_busy hh ((phase_busy_iff s).mp hp).2
    rw [poll] at turn
    obtain ⟨t, run, same, due, host⟩ := ih (s := s.passTurn.answer (some (.word (statusWord s)))) hp (by simp [hd]) hh
    refine ⟨t, fun n => ?_, ((sameSpecState_passTurn s).trans (sameSpecState_answer _ _)).trans same, due, host⟩
    rw [Nat.succ_add, run_next (k + n) turn, run]

/-- The completion of a command that is due, and then the STATUS read that ends the `WAIT`. -/
theorem run_complete_wait {s : State} {i : Instr} {rest : List HostItem} (hp : s.phase = .busy) (hd : s.delay = 0)
    (hi : decode s.cmdr = .ok i) (pass : operandFault pcodec i = none) (hh : s.host = .wait :: rest) :
    ∃ t : State, Host.Core.run core 2 s = .next t ∧ t.host = rest ∧
      t.phase = .idle ∧ SameSpecState (effect pcodec i s).finish t ∧ t.reply = some (.word (statusWord t)) := by
  have completion : step s = .next (effect pcodec i s).finish := by
    rw [step_complete ((engineTurn_iff s).mpr ⟨hp, hd⟩) hi, exec_of_pass pass]
    rfl
  -- Named, so that no comparison of states evaluates a checksum.
  generalize hu : effect pcodec i s = u at completion ⊢
  have idle : u.finish.phase = .idle := by
    have notFaulted := ((phase_busy_iff s).mp hp).1
    rw [phase_idle_iff, ← hu]
    exact ⟨(effect_keepsUnwritten i s).sameControl.fault.trans notFaulted, rfl⟩
  have host : u.finish.host = .wait :: rest := by
    rw [← hu, State.finish_host, (effect_keepsUnwritten i s).host, hh]
  have poll := step_of_idle idle
  rw [hostMove_wait_done host rfl] at poll
  refine ⟨_, ((run_next 1 completion).trans (run_next 0 poll)).trans (run_zero _), rfl, idle, ?_, rfl⟩
  exact ((sameSpecState_passTurn _).trans (sameSpecState_answer _ _)).trans (sameSpecState_withHost rest _)

/-- The issue of a command by a script's first line. -/
theorem step_issue {s : State} {i : Instr} {rest : List HostItem} (hp : s.phase = .idle) (hw : i.wellFormed = true)
    (pass : operandFault pcodec i = none) (hh : s.host = scriptCommand i :: rest) :
    ∃ t, step s = .next t ∧ SameSpecState { s with cmdr := encode i, busy := true } t ∧ t.delay = s.nextLatency ∧
      t.host = rest := by
  have issued : hostMove s = ((s.passTurn.withHost rest).accept (encode i)).answer none := by
    rw [hostMove_act hh, hostStep, regWrite_idle (by simpa using hp), issue_of_pass (decode_encode hw) pass]
  refine ⟨_, step_of_idle hp, ?_⟩
  rw [issued]
  exact ⟨((sameSpecState_passTurn_withHost rest s).issued _).trans
    ((sameSpecState_accept _ _).trans (sameSpecState_answer none _)), rfl, rfl⟩

end Sys2Proof.Says

namespace Sys2Proof.Proofs

open Sys2Proof.Machine Sys2Proof.Says

/-- Settles O56: the issue, the polls of the latency, the completion and the last poll; what the command does is a function
of the spec's state, which the polls leave. -/
theorem scriptCommandTakesEffect : Obligations.ScriptCommandTakesEffect := by
  intro i s rest hw pass hp hh
  refine ⟨effect pcodec i { s with cmdr := encode i, busy := true }, ?_⟩
  obtain ⟨s₁, issue, same₁, latency, host₁⟩ := step_issue hp hw pass hh
  have busy : s₁.phase = .busy := by
    have notFaulted := ((phase_idle_iff s).mp hp).1
    exact (phase_busy_iff s₁).mpr ⟨same₁.fault.trans notFaulted, same₁.busy⟩
  obtain ⟨s₂, waits, same₂, due, host₂⟩ := run_wait busy latency host₁
  have inFlight : decode s₂.cmdr = .ok i := by
    rw [same₂.cmdr, same₁.cmdr, decode_encode hw]
  obtain ⟨t, run, host, idle, same, reply⟩ := run_complete_wait (same₂.phase.trans busy) due inFlight pass host₂
  have effects := ((same₁.trans same₂).effect i).finish
  refine ⟨t, exec_of_pass pass _, ?_, host, idle, effects.trans same, reply, ?_⟩
  · rw [run_next _ issue, waits, run]
  · rw [statusWord_busy, same.busy, State.finish_busy]

end Sys2Proof.Proofs
end

section
/-! PROOFS of the family 30_encoding, part 1: a command word as its five fields (R81), and the words that the rows of R88
cover as the encodings of what the rows read. -/

namespace Sys2Proof

/-! ## A word as its fields (R81) -/

/-- `W = Z1 ++ L ++ A ++ Z0 ++ OP`. -/
theorem fields_joined (w : Word) : z1Field w ++ lField w ++ aField w ++ z0Field w ++ opField w = w := by
  ext k hk
  simp only [z1Field, lField, aField, z0Field, opField, BitVec.getElem_append, BitVec.getElem_extractLsb']
  rw [← BitVec.getLsbD_eq_getElem]
  split_ifs <;> congr 1 <;> omega

theorem word_eq_of_fields {w w' : Word} (z1 : z1Field w = z1Field w') (l : lField w = lField w') (a : aField w = aField w')
    (z0 : z0Field w = z0Field w') (op : opField w = opField w') : w = w' := by
  rw [← fields_joined w, z1, l, a, z0, op, fields_joined]

@[simp] theorem z1Field_assemble (l : BitVec 10) (a : Byte) (op : BitVec 4) : z1Field (assemble l a op) = 0#6 := by
  ext k hk
  grind [z1Field, assemble]

@[simp] theorem lField_assemble (l : BitVec 10) (a : Byte) (op : BitVec 4) : lField (assemble l a op) = l := by
  ext k hk
  grind [lField, assemble]

@[simp] theorem aField_assemble (l : BitVec 10) (a : Byte) (op : BitVec 4) : aField (assemble l a op) = a := by
  ext k hk
  grind [aField, assemble]

@[simp] theorem z0Field_assemble (l : BitVec 10) (a : Byte) (op : BitVec 4) : z0Field (assemble l a op) = 0#4 := by
  ext k hk
  grind [z0Field, assemble]

@[simp] theorem opField_assemble (l : BitVec 10) (a : Byte) (op : BitVec 4) : opField (assemble l a op) = op := by
  ext k hk
  grind [opField, assemble]

/-- With the reserved fields 0 a word is `(L << 16) | (A << 8) | OP`. -/
theorem assemble_fields {w : Word} (z1 : z1Field w = 0#6) (z0 : z0Field w = 0#4) :
    assemble (lField w) (aField w) (opField w) = w :=
  word_eq_of_fields (by simp [z1]) (by simp) (by simp) (by simp [z0]) (by simp)

/-! ## The two fields with a narrower operand (R83, R85, R86) -/

theorem optionBit_eq_aField_bit (w : Word) : optionBit w = (aField w).getLsbD 0 := by
  simp [optionBit, aField]

/-- A byte operand that holds a one-bit option is that bit's byte. -/
theorem optionByte_of_upper_zero : ∀ a : Byte, a.extractLsb' 1 7 = 0#7 → optionByte (a.getLsbD 0) = a := by
  decide +kernel

theorem optionByte_upper (b : Bool) : (optionByte b).extractLsb' 1 7 = 0#7 := by
  cases b <;> rfl

/-- The masks of format T that have a command, as `L[9:8]` and `L[7:0]`. -/
theorem legal_mask_iff (l : BitVec 10) :
    (l = 1#10 ∨ l = 2#10) ↔ l.extractLsb' 8 2 = 0#2 ∧ (l.extractLsb' 0 8 = 0x01#8 ∨ l.extractLsb' 0 8 = 0x02#8) := by
  constructor
  · rintro (rfl | rfl) <;> decide
  · rintro ⟨upper, mask⟩
    have joined : l.extractLsb' 8 2 ++ l.extractLsb' 0 8 = l := BitVec.extractLsb'_append_extractLsb'
    rw [← joined, upper]
    rcases mask with mask | mask <;> rw [mask] <;> decide

/-! ## Covered words are encodings (R88, R91) -/

theorem covered_fields {w mask pattern : Word} (h : w &&& mask = pattern) :
    z1Field w &&& z1Field mask = z1Field pattern ∧ lField w &&& lField mask = lField pattern ∧
    aField w &&& aField mask = aField pattern ∧ z0Field w &&& z0Field mask = z0Field pattern ∧
    opField w &&& opField mask = opField pattern := by
  subst h
  exact ⟨BitVec.extractLsb'_and.symm, BitVec.extractLsb'_and.symm, BitVec.extractLsb'_and.symm, BitVec.extractLsb'_and.symm,
    BitVec.extractLsb'_and.symm⟩

/-- A field whose bits are all in the mask is the pattern's. -/
theorem field_fixed {n : Nat} {x mask pattern : BitVec n} (h : x &&& mask = pattern) (all : mask = BitVec.allOnes n) :
    x = pattern := by
  rw [← h, all, BitVec.and_allOnes]

/-- The masks of formats E and K fix the bits of `A` but `A[0]`. -/
theorem upper_fixed {a : Byte} (h : a &&& 0xFE#8 = 0#8) : a.extractLsb' 1 7 = 0#7 := by
  have upper := congrArg (BitVec.extractLsb' 1 7) h
  rw [BitVec.extractLsb'_and] at upper
  exact field_fixed upper rfl

/-- Every row fixes the reserved fields at 0, and the opcode. -/
theorem rows_fix_reserved_and_opcode : ∀ r ∈ rows,
    (z1Field r.mask = BitVec.allOnes 6 ∧ z0Field r.mask = BitVec.allOnes 4 ∧ opField r.mask = BitVec.allOnes 4) ∧
    z1Field r.pattern = 0#6 ∧ z0Field r.pattern = 0#4 := by
  decide

theorem covered_eq_assemble {r : Row} {w : Word} (hr : r ∈ rows) (h : w &&& r.mask = r.pattern) :
    assemble (lField w) (aField w) (opField r.pattern) = w := by
  obtain ⟨z1, _, _, z0, op⟩ := covered_fields h
  obtain ⟨⟨z1All, z0All, opAll⟩, z1Zero, z0Zero⟩ := rows_fix_reserved_and_opcode r hr
  rw [← field_fixed op opAll]
  exact assemble_fields ((field_fixed z1 z1All).trans z1Zero) ((field_fixed z0 z0All).trans z0Zero)

theorem assemble_of_fields {w : Word} {l : BitVec 10} {a : Byte} (op : BitVec 4) (hl : lField w = l) (ha : aField w = a) :
    assemble l a op = assemble (lField w) (aField w) op := by
  rw [hl, ha]

/-- A row covers only encodings of what it reads: what its mask leaves free is the operand. -/
theorem encode_read_of_covers {r : Row} {w : Word} (hr : r ∈ rows) (h : w &&& r.mask = r.pattern) :
    encode (r.read w) = w := by
  refine Eq.trans ?_ (covered_eq_assemble hr h)
  obtain ⟨_, l, a, _, _⟩ := covered_fields h
  have number : lField w = BitVec.ofNat 10 (lField w).toNat := by simp
  have option (free : aField w &&& 0xFE#8 = 0#8) : aField w = optionByte (optionBit w) := by
    rw [optionBit_eq_aField_bit, optionByte_of_upper_zero _ (upper_fixed free)]
  simp only [rows, List.mem_cons, List.not_mem_nil, or_false] at hr
  -- The formats of the rows, in R88's order: Z four times, E, D, Z, T twice, K.
  rcases hr with rfl | rfl | rfl | rfl | rfl | rfl | rfl | rfl | rfl | rfl
  · exact assemble_of_fields _ (field_fixed l rfl) (field_fixed a rfl)
  · exact assemble_of_fields _ (field_fixed l rfl) (field_fixed a rfl)
  · exact assemble_of_fields _ (field_fixed l rfl) (field_fixed a rfl)
  · exact assemble_of_fields _ (field_fixed l rfl) (field_fixed a rfl)
  · exact assemble_of_fields _ number (option a)
  · exact assemble_of_fields _ number (field_fixed a rfl)
  · exact assemble_of_fields _ (field_fixed l rfl) (field_fixed a rfl)
  · exact assemble_of_fields _ (field_fixed l rfl) rfl
  · exact assemble_of_fields _ (field_fixed l rfl) rfl
  · exact assemble_of_fields _ (field_fixed l rfl) (option a)

/-- What a row reads fits its field. -/
theorem read_wellFormed {r : Row} (hr : r ∈ rows) (w : Word) : (r.read w).wellFormed = true := by
  have number : (lField w).toNat < 1024 := (lField w).isLt
  simp only [rows, List.mem_cons, List.not_mem_nil, or_false] at hr
  rcases hr with rfl | rfl | rfl | rfl | rfl | rfl | rfl | rfl | rfl | rfl <;> simp [Instr.wellFormed, number]

/-- R91's loop over the rows. -/
theorem decode_eq_ok_iff (w : Word) (i : Instr) :
    decode w = .ok i ↔ ∃ r ∈ rows, w &&& r.mask = r.pattern ∧ i = r.read w := by
  constructor
  · intro h
    unfold decode at h
    split at h
    · rename_i r found
      refine ⟨r, List.mem_of_find?_eq_some found, by simpa [Row.covers] using List.find?_some found, ?_⟩
      exact (Except.ok.inj h).symm
    · cases h
  · rintro ⟨r, hr, covers, rfl⟩
    exact decode_of_covering_row hr covers

/-- A word decodes exactly to the commands it encodes. -/
theorem decode_eq_ok_iff_encode (w : Word) (i : Instr) : decode w = .ok i ↔ encode i = w ∧ i.wellFormed = true := by
  constructor
  · intro h
    obtain ⟨r, hr, covers, rfl⟩ := (decode_eq_ok_iff w i).mp h
    exact ⟨encode_read_of_covers hr covers, read_wellFormed hr w⟩
  · rintro ⟨rfl, wellFormed⟩
    exact decode_encode wellFormed

theorem reserved_encode (i : Instr) : z0Field (encode i) = 0#4 ∧ z1Field (encode i) = 0#6 := by
  cases i <;> simp [encode]

theorem decode_error_iff (w : Word) : (∃ e, decode w = .error e) ↔ ¬ ∃ i, decode w = .ok i := by
  cases decode w <;> simp

end Sys2Proof

namespace Sys2Proof.Proofs

open Sys2Proof.Machine Sys2Proof.Says

/-- Settles O2: a covering row reads back the operands its mask leaves free, and the mask fixes the rest. -/
theorem decodeAndEncodeAgree : Obligations.DecodeAndEncodeAgree := by
  refine ⟨decode_eq_ok_iff, fun i => decode_encode, fun w i h => ?_⟩
  obtain ⟨encodes, wellFormed⟩ := (decode_eq_ok_iff_encode w i).mp h
  obtain ⟨z0, z1⟩ := encodes ▸ reserved_encode i
  exact ⟨encodes, wellFormed, (assemble_fields z1 z0).symm⟩

/-- Settles O3: two rows that cover one word are the same row. -/
theorem noTwoRowsCoverOneWord : Obligations.NoTwoRowsCoverOneWord :=
  fun _ hr _ hr' _ h h' => congrArg Row.mnemonic (covering_row_unique hr hr' h h')

end Sys2Proof.Proofs
end

section
/-! PROOFS of the family 30_encoding, part 2: the words that decode to nothing (R89) and the pseudo-instructions (R93). -/

namespace Sys2Proof

/-! ## The formats of the ten commands (R82 to R86, R88) -/

/-- What the formats admit in the operand fields under each opcode. -/
def FormatAdmits (op : BitVec 4) (l : BitVec 10) (a : Byte) : Prop :=
  (op ∈ [0x1#4, 0x2#4, 0x3#4, 0x4#4, 0xA#4] ∧ a = 0#8 ∧ l = 0#10) ∨
  (op = 0x8#4 ∧ a.extractLsb' 1 7 = 0#7) ∨
  (op = 0x9#4 ∧ a = 0#8) ∨
  (op = 0xB#4 ∧ (l = 1#10 ∨ l = 2#10)) ∨
  (op = 0xC#4 ∧ a.extractLsb' 1 7 = 0#7 ∧ l = 0#10)

theorem formatAdmits_encode (i : Instr) :
    FormatAdmits (opField (encode i)) (lField (encode i)) (aField (encode i)) := by
  cases i <;> simp [FormatAdmits, encode, optionByte_upper]

/-- Operand fields that a format admits are those of some command. -/
theorem exists_encode_eq_assemble {op : BitVec 4} {l : BitVec 10} {a : Byte} (h : FormatAdmits op l a) :
    ∃ i : Instr, i.wellFormed = true ∧ encode i = assemble l a op := by
  have number : BitVec.ofNat 10 l.toNat = l := by simp
  have fits : decide (l.toNat < 1024) = true := by simp [l.isLt]
  rcases h with ⟨opZ, rfl, rfl⟩ | ⟨rfl, upper⟩ | ⟨rfl, rfl⟩ | ⟨rfl, rfl | rfl⟩ | ⟨rfl, upper, rfl⟩
  · simp only [List.mem_cons, List.not_mem_nil, or_false] at opZ
    rcases opZ with rfl | rfl | rfl | rfl | rfl
    · exact ⟨.ckclr, rfl, rfl⟩
    · exact ⟨.cksum, rfl, rfl⟩
    · exact ⟨.ckput, rfl, rfl⟩
    · exact ⟨.ckget, rfl, rfl⟩
    · exact ⟨.verify, rfl, rfl⟩
  · exact ⟨.encode l.toNat (a.getLsbD 0), fits, by rw [encode, number, optionByte_of_upper_zero a upper]⟩
  · exact ⟨.decode l.toNat, fits, by rw [encode, number]⟩
  · exact ⟨.issetAck a, rfl, rfl⟩
  · exact ⟨.issetFin a, rfl, rfl⟩
  · exact ⟨.mkack (a.getLsbD 0), rfl, by rw [encode, optionByte_of_upper_zero a upper]⟩

theorem decodes_iff_format (w : Word) :
    (∃ i, decode w = .ok i) ↔
      z0Field w = 0#4 ∧ z1Field w = 0#6 ∧ FormatAdmits (opField w) (lField w) (aField w) := by
  constructor
  · rintro ⟨i, h⟩
    obtain ⟨rfl, _⟩ := (decode_eq_ok_iff_encode w i).mp h
    obtain ⟨z0, z1⟩ := reserved_encode i
    exact ⟨z0, z1, formatAdmits_encode i⟩
  · rintro ⟨z0, z1, admitted⟩
    obtain ⟨i, wellFormed, encodes⟩ := exists_encode_eq_assemble admitted
    exact ⟨i, (decode_eq_ok_iff_encode w i).mpr ⟨encodes.trans (assemble_fields z1 z0), wellFormed⟩⟩

theorem opcode_cases : ∀ op : BitVec 4,
    op ∈ [0x0#4, 0x5#4, 0x6#4, 0x7#4, 0xD#4, 0xE#4, 0xF#4] ∨ op ∈ [0x1#4, 0x2#4, 0x3#4, 0x4#4, 0xA#4] ∨
      op = 0x8#4 ∨ op = 0x9#4 ∨ op = 0xB#4 ∨ op = 0xC#4 := by
  decide

/-- The operand fields that no format admits are R89's classes, opcode by opcode. -/
theorem not_formatAdmits_iff (op : BitVec 4) (l : BitVec 10) (a : Byte) :
    ¬ FormatAdmits op l a ↔
      op ∈ [0x0#4, 0x5#4, 0x6#4, 0x7#4, 0xD#4, 0xE#4, 0xF#4] ∨
      (op ∈ [0x1#4, 0x2#4, 0x3#4, 0x4#4, 0xA#4] ∧ (a ≠ 0#8 ∨ l ≠ 0#10)) ∨
      (op ∈ [0x8#4, 0xC#4] ∧ a.extractLsb' 1 7 ≠ 0#7) ∨
      (op = 0xC#4 ∧ l ≠ 0#10) ∨
      (op = 0x9#4 ∧ a ≠ 0#8) ∨
      (op = 0xB#4 ∧ (l.extractLsb' 8 2 ≠ 0#2 ∨ (l.extractLsb' 0 8 ≠ 0x01#8 ∧ l.extractLsb' 0 8 ≠ 0x02#8))) := by
  rw [FormatAdmits, legal_mask_iff]
  rcases opcode_cases op with reserved | formatZ | rfl | rfl | rfl | rfl
  · simp only [List.mem_cons, List.not_mem_nil, or_false] at reserved
    rcases reserved with rfl | rfl | rfl | rfl | rfl | rfl | rfl <;> simp
  · simp only [List.mem_cons, List.not_mem_nil, or_false] at formatZ
    rcases formatZ with rfl | rfl | rfl | rfl | rfl <;> simp [imp_iff_not_or]
  · simp
  · simp
  · simp [imp_iff_not_or]
  · simp [imp_iff_not_or]

/-! ## Words written out (R81, R93) -/

theorem decode_of_encode_eq {i : Instr} {w : Word} (encodes : encode i = w) (wellFormed : i.wellFormed = true) :
    decode w = .ok i :=
  (decode_eq_ok_iff_encode w i).mpr ⟨encodes, wellFormed⟩

/-- A number that fits `L` stands at bit 16 of the word as it is. -/
theorem assemble_length {n : Nat} (h : n < 1024) (a : Byte) (op : BitVec 4) :
    assemble (BitVec.ofNat 10 n) a op = assemble 0#10 a op ||| (BitVec.ofNat 32 n <<< 16) := by
  rw [assemble, assemble, BitVec.setWidth_ofNat_of_le_of_lt (by decide) h, BitVec.setWidth_zero, BitVec.zero_shiftLeft,
    BitVec.zero_or, BitVec.or_assoc, BitVec.or_comm]

theorem assemble_byte (l : BitVec 10) (a : Byte) (op : BitVec 4) :
    assemble l a op = assemble l 0#8 op ||| (a.setWidth 32 <<< 8) := by
  rw [assemble, assemble, BitVec.setWidth_zero, BitVec.zero_shiftLeft, BitVec.or_zero,
    BitVec.or_assoc, BitVec.or_assoc, BitVec.or_comm (a.setWidth 32 <<< 8)]

end Sys2Proof

namespace Sys2Proof.Proofs

open Sys2Proof.Machine Sys2Proof.Says

/-- Settles O4: a word decodes exactly when its reserved fields are 0 and a format admits the others. -/
theorem illegalWordsAreTheReservedOnes : Obligations.IllegalWordsAreTheReservedOnes := by
  refine ⟨fun w => ?_, fun w => rejectedAs_illegal, fun n isFin large fits => ?_, fun length outside fits => ?_⟩
  · rw [decode_error_iff, decodes_iff_format, not_and_or, not_and_or, not_formatAdmits_iff, ← or_assoc, or_left_comm,
      or_assoc]
  · have decodes := decode_encode (i := .encode n isFin) (by simpa [Instr.wellFormed] using fits)
    exact ⟨decodes, rejectedAs_operandFault decodes (operandFault_encode_over large isFin)⟩
  · have decodes := decode_encode (i := .decode length) (by simpa [Instr.wellFormed] using fits)
    exact ⟨decodes, rejectedAs_operandFault decodes (operandFault_decode_outside outside)⟩

/-- Settles O1: each word is the encoding of its command. -/
theorem writtenOutWordsDecode : Obligations.WrittenOutWordsDecode :=
  ⟨decode_of_encode_eq rfl rfl, decode_of_encode_eq rfl rfl, decode_of_encode_eq rfl rfl, decode_of_encode_eq rfl rfl,
    decode_of_encode_eq rfl rfl, decode_of_encode_eq rfl rfl, decode_of_encode_eq rfl rfl, decode_of_encode_eq rfl rfl,
    decode_of_encode_eq rfl rfl, decode_of_encode_eq rfl rfl⟩

/-- Settles O5: `L` and `A` stand in the word at bits 16 and 8. -/
theorem pseudoInstructionsExpand : Obligations.PseudoInstructionsExpand := by
  refine ⟨⟨rfl, rfl⟩, ⟨rfl, rfl⟩, fun f => ⟨rfl, assemble_byte 1#10 f 0xB#4⟩, fun f => ⟨rfl, assemble_byte 2#10 f 0xB#4⟩,
    fun f m notAck notFin => ?_, fun n fits => ⟨rfl, assemble_length fits (optionByte true) 0x8#4⟩,
    fun n fits => ⟨rfl, assemble_length fits (optionByte false) 0x8#4⟩⟩
  rw [Pseudo.expand, if_neg notAck, if_neg notFin]

end Sys2Proof.Proofs
end

section
/-! PROOFS of the family 30_encoding, part 3: the engine's step (R96) and the bytes a script loads (R94). -/

namespace Sys2Proof.Machine

/-! ## Complete (R96) -/

theorem step_completes {s : State} {i : Instr} (hp : s.phase = .busy) (hd : s.delay = 0) (hi : decode s.cmdr = .ok i) :
    ∃ u, exec i s = .next u ∧ step s = .next u.finish := by
  obtain ⟨u, hu⟩ := exec_answers i s
  refine ⟨u, hu, ?_⟩
  rw [step_complete ((engineTurn_iff s).mpr ⟨hp, hd⟩) hi, hu, finishOutcome]

theorem engineTurn_eq_false {s : State} (h : s.phase ≠ .busy ∨ s.delay ≠ 0) : engineTurn s = false := by
  rw [Bool.eq_false_iff, ne_eq, engineTurn_iff, not_and_or]
  exact h

theorem exec_sameControl {i : Instr} {s u : State} (pass : operandFault pcodec i = none) (h : exec i s = .next u) :
    SameControl s u := by
  have keeps := (Says.effect_keepsUnwritten i s).sameControl
  rw [exec_of_pass pass] at h
  injection h with h
  rwa [h] at keeps

end Sys2Proof.Machine

namespace Sys2Proof.Says

open Sys2Proof.Machine

/-! ## `BWS` (R94) -/

theorem SameSpecState.setBuf {s t : State} (h : SameSpecState s t) (m : Memory) :
    SameSpecState { s with buf := m } { t with buf := m } :=
  { h with bytes := fun _ => rfl }

/-- One accepted `BufWrite` of a script. -/
theorem step_bufWrite {s : State} {a : Nat} {b : Byte} {rest : List HostItem} (hp : s.phase = .idle) (ha : a < 1000)
    (hh : s.host = .act (.bufWrite (BitVec.ofNat 10 a) b) :: rest) :
    ∃ t, step s = .next t ∧ t.phase = .idle ∧ t.host = rest ∧ SameSpecState (s.storeByte a b) t := by
  have address : (BitVec.ofNat 10 a).toNat = a := by
    rw [BitVec.toNat_ofNat]
    omega
  have written : hostMove s = ((s.passTurn.withHost rest).storeByte a b).answer none := by
    rw [hostMove_act hh, hostStep, bufWrite_idle_inside (by simpa using hp) (by omega), address]
  refine ⟨_, step_of_idle hp, ?_⟩
  rw [written]
  exact ⟨hp, rfl, ((sameSpecState_passTurn_withHost rest s).setBuf (s.buf.write a b)).trans (sameSpecState_answer none _)⟩

/-- The bytes of a script line, one turn each. -/
theorem run_scriptBytes (bytes : List Byte) (a : Nat) (s : State) (rest : List HostItem) (hp : s.phase = .idle)
    (fits : a + bytes.length ≤ 1000) (hh : s.host = scriptBytes a bytes ++ rest) :
    ∃ t : State, Host.Core.run core bytes.length s = .next t ∧ t.host = rest ∧
      (∀ x, byte t x = if a ≤ x ∧ x < a + bytes.length then bytes.getD (x - a) 0x00#8 else byte s x) ∧
      SameSpecState { s with buf := t.buf } t := by
  induction bytes generalizing a s with
  | nil =>
    refine ⟨s, run_zero s, hh, fun x => ?_, SameSpecState.refl s⟩
    rw [if_neg (by simp)]
  | cons b bs ih =>
    rw [List.length_cons] at fits
    obtain ⟨s₁, first, idle, host, stored⟩ := step_bufWrite hp (by omega) hh
    obtain ⟨t, run, done, loaded, same⟩ := ih (a + 1) s₁ idle (by omega) host
    refine ⟨t, (run_next bs.length first).trans run, done, fun x => ?_, (stored.setBuf t.buf).trans same⟩
    have atStart : byte s₁ x = if x = a then b else byte s x := (stored.bytes x).trans (Memory.read_write s.buf a x b)
    rw [loaded, atStart, List.length_cons]
    rcases lt_trichotomy x a with below | rfl | above
    · rw [if_neg (by omega), if_neg (by omega), if_neg (by omega)]
    · rw [if_neg (by omega), if_pos rfl, if_pos (by omega), Nat.sub_self, List.getD_cons_zero]
    · have next : x - a = x - (a + 1) + 1 := by omega
      rw [if_neg (by omega : x ≠ a), next, List.getD_cons_succ]
      exact if_congr (by omega) rfl rfl

end Sys2Proof.Says

namespace Sys2Proof.Proofs

open Sys2Proof.Machine Sys2Proof.Says

/-- Settles O46: what is due in flight is a legal word, and every command answers. -/
theorem machineNeverStops : Obligations.MachineNeverStops := by
  intro s inv
  cases turn : engineTurn s with
  | false => exact ⟨_, step_host turn⟩
  | true =>
    obtain ⟨hp, hd⟩ := (engineTurn_iff s).mp turn
    obtain ⟨i, hi, _⟩ := inv.inFlightLegal ((phase_busy_iff s).mp hp).2
    obtain ⟨u, _, completes⟩ := step_completes hp hd hi
    exact ⟨_, completes⟩

/-- Settles O47: the step is the command's meaning, finished. -/
theorem stepRunsTheDecodedCommand : Obligations.StepRunsTheDecodedCommand :=
  fun _ _ => step_completes

/-- Settles O48: a command whose operands pass leaves the fault state and BUSY, and the completion clears BUSY. -/
theorem completeRaisesNoFault : Obligations.CompleteRaisesNoFault := by
  refine ⟨fun s i hp hd hi pass => ?_, fun s h => step_host (engineTurn_eq_false h)⟩
  obtain ⟨u, answers, completes⟩ := step_completes hp hd hi
  have same := exec_sameControl pass answers
  have notFaulted : u.finish.fault = false := same.fault.trans ((phase_busy_iff s).mp hp).1
  exact ⟨u, u.finish, answers, completes, rfl, notFaulted, same.cause, same.finfo,
    (phase_idle_iff _).mpr ⟨notFaulted, rfl⟩⟩

/-- Settles O55, by induction on the bytes (`run_scriptBytes`). -/
theorem scriptLoadsBytes : Obligations.ScriptLoadsBytes := run_scriptBytes

end Sys2Proof.Proofs
end

section
/-! PROOFS of the family 40_checksum, part 1: the checksum function as a linear, reversible recurrence (R112, R117, R118). -/

namespace Sys2Proof.Machine

/-! ## One iteration: linear over GF(2), and reversible (R112) -/

/-- The polynomial is added or not as the bit shifted out says. -/
theorem crcBit_eq_xor (c : Word) : crcBit c = c >>> 1 ^^^ if c.getLsbD 0 then crcPoly else 0#32 := by
  rw [crcBit]
  split <;> simp

theorem crcBit_xor (c d : Word) : crcBit (c ^^^ d) = crcBit c ^^^ crcBit d := by
  have added (a b : Bool) : (if a ^^ b then crcPoly else 0#32) =
      (if a then crcPoly else 0#32) ^^^ (if b then crcPoly else 0#32) := by
    cases a <;> cases b <;> simp
  rw [crcBit_eq_xor, crcBit_eq_xor c, crcBit_eq_xor d, BitVec.ushiftRight_xor_distrib, BitVec.getLsbD_xor, added]
  ac_rfl

/-- The bit shifted out comes back as the top one, since the polynomial's is set. -/
theorem crcBit_top (c : Word) : (crcBit c).getLsbD 31 = c.getLsbD 0 := by
  rw [crcBit]
  split
  · next odd => simpa [crcPoly] using odd
  · next even => simpa using even

theorem crcBit_injective : Function.Injective crcBit := by
  intro c d h
  have low : c.getLsbD 0 = d.getLsbD 0 := by rw [← crcBit_top, h, crcBit_top]
  have high : c >>> 1 = d >>> 1 := by
    rw [crcBit_eq_xor, crcBit_eq_xor, low] at h
    exact (BitVec.xor_left_inj _).mp h
  refine BitVec.eq_of_getLsbD_eq fun i _ => ?_
  cases i with
  | zero => exact low
  | succ i => simpa [Nat.add_comm] using congrArg (·.getLsbD i) high

/-! ## Several iterations, and one byte -/

theorem crcBits_xor (k : Nat) (c d : Word) : crcBits k (c ^^^ d) = crcBits k c ^^^ crcBits k d := by
  induction k generalizing c d with
  | zero => rfl
  | succ k ih => rw [crcBits, crcBit_xor, ih, crcBits, crcBits]

theorem crcBits_injective (k : Nat) : Function.Injective (crcBits k) := by
  induction k with
  | zero => exact Function.injective_id
  | succ k ih => exact ih.comp crcBit_injective

/-- Iterations that only shift zeros out never meet the polynomial. -/
theorem crcBits_of_low_zero {k : Nat} {c : Word} (h : ∀ i < k, c.getLsbD i = false) : crcBits k c = c >>> k := by
  induction k generalizing c with
  | zero => simp [crcBits]
  | succ k ih =>
    have shifts : crcBit c = c >>> 1 := if_neg (by rw [h 0 (by omega)]; decide)
    rw [crcBits, shifts, ih fun i hi => by simpa using h (1 + i) (by omega), ← BitVec.shiftRight_add, Nat.add_comm]

theorem crcUpdate_xor (c d : Word) (x y : Byte) :
    crcUpdate (c ^^^ d) (x ^^^ y) = crcUpdate c x ^^^ crcUpdate d y := by
  have regroup : c ^^^ d ^^^ (x ^^^ y).setWidth 32 = c ^^^ x.setWidth 32 ^^^ (d ^^^ y.setWidth 32) := by
    rw [BitVec.setWidth_xor]
    ac_rfl
  rw [crcUpdate, regroup, crcBits_xor, crcUpdate, crcUpdate]

theorem crcUpdate_injective_acc (b : Byte) : Function.Injective (crcUpdate · b) :=
  fun _ _ h => (BitVec.xor_left_inj _).mp (crcBits_injective 8 h)

theorem crcUpdate_injective_byte (c : Word) : Function.Injective (crcUpdate c) := by
  intro x y h
  have widened := (BitVec.xor_right_inj _).mp (crcBits_injective 8 h)
  simpa using congrArg (BitVec.setWidth 8) widened

/-! ## A sequence of bytes (R114) -/

theorem foldl_crcUpdate_xor {x y : List Byte} (h : x.length = y.length) (c d : Word) :
    (List.zipWith (· ^^^ ·) x y).foldl crcUpdate (c ^^^ d) = x.foldl crcUpdate c ^^^ y.foldl crcUpdate d := by
  induction x generalizing y c d with
  | nil => cases List.length_eq_zero_iff.mp h.symm; rfl
  | cons b x ih =>
    cases y with
    | nil => cases h
    | cons b' y =>
      rw [List.zipWith_cons_cons, List.foldl_cons, crcUpdate_xor, ih (Nat.succ.inj h), List.foldl_cons, List.foldl_cons]

theorem crcFinal_xor_xor (a b c : Word) : crcFinal (a ^^^ b ^^^ c) = crcFinal a ^^^ crcFinal b ^^^ crcFinal c := by
  grind [crcFinal]

theorem foldl_crcUpdate_injective (bytes : List Byte) : Function.Injective (bytes.foldl crcUpdate) := by
  induction bytes with
  | nil => exact Function.injective_id
  | cons b bytes ih => exact ih.comp (crcUpdate_injective_acc b)

/-- Two sequences that differ in one place have different checksums (R118). -/
theorem crc32_one_byte_injective (before after : List Byte) :
    Function.Injective fun b => crc32 (before ++ b :: after) := by
  intro x y h
  have folded := (BitVec.xor_left_inj _).mp h
  rw [List.foldl_append, List.foldl_append] at folded
  exact crcUpdate_injective_byte _ (foldl_crcUpdate_injective after folded)

end Sys2Proof.Machine

namespace Sys2Proof.Proofs

open Sys2Proof.Machine Sys2Proof.Says

/-- Settles O8: the accumulator's upper three bytes only shift, and its low byte meets `b`; the iterations are linear. -/
theorem crcUpdateIsTheTableStep : Obligations.CrcUpdateIsTheTableStep := by
  intro c b
  have upper : crcBits 8 (c >>> 8 <<< 8) = c >>> 8 := by
    rw [crcBits_of_low_zero fun i hi => by simp [hi]]
    ext i hi
    grind
  have split : c ^^^ b.setWidth 32 = c >>> 8 <<< 8 ^^^ (0#32 ^^^ (c.extractLsb' 0 8 ^^^ b).setWidth 32) := by
    ext i hi
    grind
  rw [crcUpdate, split, crcBits_xor, upper, crcUpdate]

/-- Settles O9: the sum of the three initial accumulators is the initial one, and the final step is affine itself. -/
theorem crcIsAffine : Obligations.CrcIsAffine := by
  intro x y z hxy hyz
  have init : crcInit ^^^ crcInit ^^^ crcInit = crcInit := by decide
  rw [crc32, ← init, foldl_crcUpdate_xor (by simp [hxy, hyz]), foldl_crcUpdate_xor hxy, crcFinal_xor_xor]
  rfl

end Sys2Proof.Proofs
end

section
/-! PROOFS of the family 40_checksum, part 2: the checksum of the buffer (R116, R118) and what a changed byte does to it. -/

namespace Sys2Proof.Machine

namespace Memory

/-! ## Runs of bytes, and the buffer's checksum as one (R116) -/

/-- Four zero bytes in place of the field, then `BUF[4..999]`. -/
theorem bufCrc_pcodec (m : Memory) : bufCrc pcodec m = crc32 (List.replicate 4 0x00#8 ++ slice m 4 996) := by
  rw [bufCrc, pcodec_crc32, pcodec_ckOff, pcodec_ckSize, pcodec_bufSize]
  rfl

theorem slice_eq_map_range (m : Memory) (lo n : Nat) : slice m lo n = (List.range n).map fun k => read m (lo + k) := by
  rw [slice, List.range'_eq_map_range, List.map_map]
  rfl

/-- A run of bytes cut at one of them. -/
theorem slice_split (m : Memory) {lo n a : Nat} (h : lo ≤ a ∧ a < lo + n) :
    slice m lo n = slice m lo (a - lo) ++ read m a :: slice m (a + 1) (lo + n - (a + 1)) := by
  have cut : List.range' lo n = List.range' lo (a - lo) ++ a :: List.range' (a + 1) (lo + n - (a + 1)) := by
    rw [← List.range'_succ, show a = lo + (a - lo) by omega, Nat.add_sub_cancel_left, List.range'_append_1]
    congr 1
    omega
  rw [slice, cut, List.map_append, List.map_cons, slice, slice]

/-- A written byte of a run stands between the same bytes as before. -/
theorem slice_write (m : Memory) {lo n a : Nat} (b : Byte) (h : lo ≤ a ∧ a < lo + n) :
    slice (write m a b) lo n = slice m lo (a - lo) ++ b :: slice m (a + 1) (lo + n - (a + 1)) := by
  have before : slice (write m a b) lo (a - lo) = slice m lo (a - lo) :=
    slice_congr fun x _ _ => read_write_ne b (by omega)
  have after : slice (write m a b) (a + 1) (lo + n - (a + 1)) = slice m (a + 1) (lo + n - (a + 1)) :=
    slice_congr fun x _ _ => read_write_ne b (by omega)
  rw [slice_split _ h, read_write_same, before, after]

/-! ## One changed byte (R118) -/

theorem bufCrc_write_fieldByte (m : Memory) {a : Nat} (b : Byte) (h : a < 4) :
    bufCrc pcodec (write m a b) = bufCrc pcodec m :=
  bufCrc_pcodec_congr fun _ _ _ => read_write_ne b (by omega)

theorem bufCrc_write_ne {m : Memory} {a : Nat} {b : Byte} (h : 4 ≤ a ∧ a < 1000) (changed : b ≠ read m a) :
    bufCrc pcodec (write m a b) ≠ bufCrc pcodec m := by
  intro same
  rw [bufCrc_pcodec, bufCrc_pcodec, slice_write m b h, slice_split (lo := 4) (n := 996) m h, ← List.append_assoc,
    ← List.append_assoc] at same
  exact changed (crc32_one_byte_injective _ _ same)

/-- A word determines the four bytes it was read from. -/
theorem read_eq_of_read4_eq {m m' : Memory} {a x : Nat} (h : read4 m a = read4 m' a) (hx : a ≤ x ∧ x < a + 4) :
    read m x = read m' x := by
  rw [Says.read4_eq_bigEndian, Says.read4_eq_bigEndian] at h
  obtain ⟨b₀, b₁, b₂, b₃⟩ := Says.extractLsb'_bigEndian (read m a) (read m (a + 1)) (read m (a + 2)) (read m (a + 3))
  obtain ⟨c₀, c₁, c₂, c₃⟩ := Says.extractLsb'_bigEndian (read m' a) (read m' (a + 1)) (read m' (a + 2)) (read m' (a + 3))
  have : x = a ∨ x = a + 1 ∨ x = a + 2 ∨ x = a + 3 := by omega
  rcases this with rfl | rfl | rfl | rfl
  · rw [← b₀, h, c₀]
  · rw [← b₁, h, c₁]
  · rw [← b₂, h, c₂]
  · rw [← b₃, h, c₃]

theorem read4_write_fieldByte_ne {m : Memory} {a : Nat} {b : Byte} (h : a < 4) (changed : b ≠ read m a) :
    read4 (write m a b) 0 ≠ read4 m 0 := by
  intro same
  have kept := read_eq_of_read4_eq same ⟨Nat.zero_le a, by omega⟩
  rw [read_write_same] at kept
  exact changed kept

end Memory

/-- `VALID` (R145): the checksum of the buffer is the stored one. -/
theorem verifyPacket_valid_iff (s : State) :
    (verifyPacket pcodec s).valid = true ↔ bufCrc pcodec s.buf = Memory.read4 s.buf 0 := by
  rw [verifyPacket_valid, checksumMatches, beq_iff_eq, pcodec_ckOff]

/-- In a valid packet one changed byte changes the checksum or the stored field, and not both. -/
theorem bufCrc_ne_read4_of_write {m : Memory} {a : Nat} {b : Byte} (valid : bufCrc pcodec m = Memory.read4 m 0)
    (ha : a < 1000) (changed : b ≠ Memory.read m a) :
    bufCrc pcodec (Memory.write m a b) ≠ Memory.read4 (Memory.write m a b) 0 := by
  by_cases field : a < 4
  · rw [Memory.bufCrc_write_fieldByte m b field, valid]
    exact (Memory.read4_write_fieldByte_ne field changed).symm
  · rw [Memory.read4_write_ne b (by omega), ← valid]
    exact Memory.bufCrc_write_ne ⟨by omega, ha⟩ changed

end Sys2Proof.Machine

namespace Sys2Proof.Proofs

open Sys2Proof.Machine Sys2Proof.Says

/-- Settles O10: the checksum's bytes are the zeros of the field and those from address 4 on. -/
theorem bufferChecksumTakesFieldAsZero : Obligations.BufferChecksumTakesFieldAsZero := by
  refine ⟨fun m => ?_, fun m a b h => Memory.bufCrc_write_fieldByte m b h⟩
  rw [Memory.bufCrc_pcodec, Memory.slice_eq_map_range]
  rfl

/-- Settles O11: the updates are injective in the accumulator and in the byte, so that one changed byte changes the result. -/
theorem oneChangedByteIsAlwaysDetected : Obligations.OneChangedByteIsAlwaysDetected := by
  refine ⟨fun m a b h₁ h₂ changed => Memory.bufCrc_write_ne ⟨h₁, h₂⟩ changed,
    fun m a b h changed => ⟨Memory.bufCrc_write_fieldByte m b h, Memory.read4_write_fieldByte_ne h changed⟩,
    fun s u a b hu valid ha changed => ⟨_, exec_of_pass rfl _, ?_⟩⟩
  cases (exec_of_pass rfl s).symm.trans hu
  have differ := bufCrc_ne_read4_of_write ((verifyPacket_valid_iff s).mp valid) ha changed
  exact Bool.eq_false_iff.mpr fun valid' => differ ((verifyPacket_valid_iff _).mp valid')

end Sys2Proof.Proofs
end

section
/-! PROOFS of the family 40_checksum, part 3: the accumulator's commands (R119 to R122) and their compositions (R123). -/

namespace Sys2Proof.Machine

/-! ## The checksum field of BUF, and the checksum -/

/-- The checksum does not see what the field holds (R116). -/
theorem bufCrc_writeField (m : Memory) (v : Word) :
    bufCrc pcodec (Memory.write4 m pcodec.ckOff v) = bufCrc pcodec m :=
  Memory.bufCrc_pcodec_congr fun _ h _ => Says.read_writeField_beyond v h

theorem read_writeField_zero (m : Memory) (a : Nat) :
    Memory.read (Memory.write4 m pcodec.ckOff 0#32) a = if a ≤ 3 then 0x00#8 else Memory.read m a := by
  rw [Memory.read_write4, pcodec_ckOff]
  simp only [BitVec.extractLsb'_zero]
  grind

/-- With the same field written, memories that agree beyond the field agree everywhere. -/
theorem read_writeField_congr {m m' : Memory} (v : Word) (h : ∀ a, 3 < a → Memory.read m a = Memory.read m' a) (a : Nat) :
    Memory.read (Memory.write4 m pcodec.ckOff v) a = Memory.read (Memory.write4 m' pcodec.ckOff v) a := by
  by_cases beyond : 3 < a
  · rw [Says.read_writeField_beyond v beyond, Says.read_writeField_beyond v beyond, h a beyond]
  · exact Says.read_writeField_inside m m' v (by omega)

/-- The recurrence of R120 over all addresses, the field's bytes taken as zero, runs over the bytes of R116. -/
theorem bufCrc_eq_accumulated (m : Memory) : bufCrc pcodec m =
    crcFinal ((List.range 1000).foldl (fun c i => crcUpdate c (if i < 4 then 0x00#8 else Memory.read m i)) crcInit) := by
  have field : (List.range 4).map (fun i => if i < 4 then 0x00#8 else Memory.read m i) = List.replicate 4 0x00#8 := rfl
  have rest : (List.range 996).map (fun k => if 4 + k < 4 then 0x00#8 else Memory.read m (4 + k)) =
      Memory.slice m 4 996 := by
    rw [Memory.slice_eq_map_range]
    exact List.map_congr_left fun k _ => if_neg (by omega)
  rw [Memory.bufCrc_pcodec, crc32, ← field, ← rest, List.range_add (n := 4) (m := 996), List.foldl_append, List.foldl_append,
    List.foldl_map, List.foldl_map, List.foldl_map]

/-- A buffer with the flags byte written and the filler zeroed is, beyond the field, the one `ENCODE` checksums (R123). -/
theorem read_framedBuffer_of_framed {m : Memory} {n : Nat} {isFin : Bool} (flags : Memory.read m 4 = finFlags pcodec isFin)
    (filler : ∀ a, 5 + n ≤ a → a ≤ 999 → Memory.read m a = 0x00#8) {a : Nat} (h : 3 < a) :
    Memory.read m a = Memory.read (framedBuffer pcodec n isFin m) a := by
  rw [read_framedBuffer]
  split
  · next hf => exact filler a hf.1 (by omega)
  · split
    · next h4 => rw [h4, flags]
    · rw [if_neg (by omega)]

/-! ## The effects field by field, for every checksum function -/

@[simp] theorem effect_ckclr_buf (P : Config) (s : State) :
    (effect P .ckclr s).buf = Memory.write4 s.buf P.ckOff 0#32 := rfl
@[simp] theorem effect_cksum_buf (P : Config) (s : State) : (effect P .cksum s).buf = s.buf := rfl
@[simp] theorem effect_cksum_chk (P : Config) (s : State) : (effect P .cksum s).chk = s.chk := rfl
@[simp] theorem effect_cksum_valid (P : Config) (s : State) : (effect P .cksum s).valid = s.valid := rfl
@[simp] theorem effect_ckput_buf (P : Config) (s : State) :
    (effect P .ckput s).buf = Memory.write4 s.buf P.ckOff s.acc := rfl
@[simp] theorem effect_ckput_acc (P : Config) (s : State) : (effect P .ckput s).acc = s.acc := rfl
@[simp] theorem effect_ckget_buf (P : Config) (s : State) : (effect P .ckget s).buf = s.buf := rfl
@[simp] theorem effect_ckget_chk (P : Config) (s : State) : (effect P .ckget s).chk = Memory.read4 s.buf P.ckOff := rfl
@[simp] theorem effect_ckget_valid (P : Config) (s : State) : (effect P .ckget s).valid = s.valid := rfl
theorem effect_verify (P : Config) (s : State) : effect P .verify s = verifyPacket P s := rfl

end Sys2Proof.Machine

namespace Sys2Proof.Says

open Sys2Proof.Machine

/-! ## The words of the commands (R54, R82) -/

theorem issuedBy_of_encode {i : Instr} {w : Word} (encodes : encode i = w) (wellFormed : i.wellFormed = true)
    (pass : operandFault pcodec i = none) : IssuedBy i w := by
  have decodes := decode_of_encode_eq encodes wellFormed
  refine ⟨encodes, decodes, fun s hp => ?_, fun s hp => ?_⟩
  · have accepted : hostStep (.regWrite 0#3 w) s = (s.accept w).answer none := by
      rw [hostStep, regWrite_idle hp, issue_of_pass decodes pass]
    rw [accepted]
    exact ⟨accept_phase hp w, rfl, (sameSpecState_accept w s).trans (sameSpecState_answer none _)⟩
  · have busyFault : hostStep (.regWrite 0#3 w) s = _ := regWrite_busy hp 0#3 w
    rw [busyFault]
    exact ⟨rfl, rfl, rfl⟩

/-- A command of format Z has no operands (R89). -/
theorem rejectedAs_operandOfFormatZ {w : Word} (opZ : opField w ∈ [0x1#4, 0x2#4, 0x3#4, 0x4#4, 0xA#4])
    (operand : aField w ≠ 0#8 ∨ lField w ≠ 0#10) : RejectedAs 1#3 w :=
  rejectedAs_illegal ((Proofs.illegalWordsAreTheReservedOnes.1 w).mpr (.inr (.inr (.inr (.inl ⟨opZ, operand⟩)))))

theorem fieldHolds_writeField (s : State) (v : Word) :
    FieldHolds { s with buf := Memory.write4 s.buf pcodec.ckOff v } v := by
  simp [FieldHolds, byte, Memory.read_write4]

end Sys2Proof.Says

namespace Sys2Proof.Proofs

open Sys2Proof.Machine Sys2Proof.Says

/-- Settles O12: the four bytes of a zero word are zero. -/
theorem ckclrZeroesTheField : Obligations.CkclrZeroesTheField :=
  ⟨fun s => ⟨_, exec_of_pass rfl s, read_writeField_zero s.buf, rfl⟩, issuedBy_of_encode rfl rfl rfl,
    fun _ op => rejectedAs_operandOfFormatZ (by simp [op])⟩

/-- Settles O13: ACC becomes the checksum of the buffer, which is R120's recurrence. -/
theorem cksumAccumulatesTheBuffer : Obligations.CksumAccumulatesTheBuffer := by
  refine ⟨fun s => ?_, issuedBy_of_encode rfl rfl rfl, fun _ op => rejectedAs_operandOfFormatZ (by simp [op])⟩
  rw [← bufCrc_eq_accumulated]
  exact exec_of_pass rfl s

/-- Settles O14: a word written to the field is there byte by byte. -/
theorem ckputStoresAccBigEndian : Obligations.CkputStoresAccBigEndian :=
  ⟨fun s => ⟨_, exec_of_pass rfl s, fieldHolds_writeField s s.acc, fun _ h => read_writeField_beyond s.acc h, rfl⟩,
    issuedBy_of_encode rfl rfl rfl, fun _ op => rejectedAs_operandOfFormatZ (by simp [op])⟩

/-- Settles O15: the word read from the field is its four bytes. -/
theorem ckgetLoadsTheFieldBigEndian : Obligations.CkgetLoadsTheFieldBigEndian := by
  refine ⟨fun s => ?_, issuedBy_of_encode rfl rfl rfl, fun _ op => rejectedAs_operandOfFormatZ (by simp [op])⟩
  rw [← read4_eq_bigEndian]
  exact exec_of_pass rfl s

/-- Settles O16: all of them checksum the same bytes beyond the field, and write or read the same field. -/
theorem primitivesComposeToEncodeAndVerify : Obligations.PrimitivesComposeToEncodeAndVerify := by
  refine ⟨fun s n isFin hn flags filler => ?_, fun s => ?_, fun s => ?_⟩
  · have framed (a : Nat) (h : 3 < a) : Memory.read s.buf a = Memory.read (framedBuffer pcodec n isFin s.buf) a :=
      read_framedBuffer_of_framed flags filler h
    have sum : bufCrc pcodec s.buf = bufCrc pcodec (framedBuffer pcodec n isFin s.buf) :=
      Memory.bufCrc_pcodec_congr fun a h _ => framed a h
    refine ⟨_, _, _, _, _, _, execEncode_of_pass hn isFin s, exec_of_pass rfl _, exec_of_pass rfl _, exec_of_pass rfl _,
      exec_of_pass rfl _, exec_of_pass rfl _, fun a => ?_, ?_, fun a => ?_, ?_⟩
    · rw [byte, byte, effect_ckput_buf, effect_cksum_buf, effect_cksum_acc, effect_ckclr_buf, encodePacket_buf,
        bufCrc_writeField, sum]
      exact read_writeField_congr _ (fun x h => (read_writeField_beyond _ h).trans (framed x h)) a
    · rw [effect_ckput_acc, effect_cksum_acc, effect_ckclr_buf, encodePacket_acc, bufCrc_writeField, sum]
    · rw [byte, byte, effect_ckput_buf, effect_cksum_buf, effect_cksum_acc, encodePacket_buf, sum]
      exact read_writeField_congr _ framed a
    · rw [effect_ckput_acc, effect_cksum_acc, encodePacket_acc, sum]
  · refine ⟨_, _, _, exec_of_pass rfl s, exec_of_pass rfl s, exec_of_pass rfl _, ?_⟩
    rw [effect_verify, verifyPacket_chk, verifyPacket_acc, verifyPacket_valid, effect_cksum_chk, effect_ckget_chk,
      effect_cksum_acc, effect_ckget_buf, effect_cksum_valid, effect_ckget_valid, checksumMatches]
    exact ⟨rfl, rfl, rfl, rfl⟩
  · refine ⟨_, _, _, _, exec_of_pass rfl s, exec_of_pass rfl _, exec_of_pass rfl _, exec_of_pass rfl _, ?_⟩
    rw [effect_cksum_acc, effect_cksum_chk, effect_ckget_buf, effect_ckget_chk, effect_ckput_buf, effect_cksum_buf,
      effect_cksum_acc, bufCrc_writeField, Memory.read4_write4_same]

end Sys2Proof.Proofs
end

section
/-! PROOFS of the family 41_codec, part 1: the words of the codec's commands, and the commands that unmarshal, test a flag or
marshal an acknowledgment (R141, R144 to R148). -/

namespace Sys2Proof

/-! ## The words of the commands (R81 to R86) -/

theorem setWidth_optionByte (b : Bool) : (optionByte b).setWidth 32 = (BitVec.ofBool b).setWidth 32 := by
  cases b <;> rfl

theorem encode_encode_word {n : Nat} (h : n < 1024) (isFin : Bool) : encode (.encode n isFin) =
    (BitVec.ofNat 32 n <<< 16) ||| ((BitVec.ofBool isFin).setWidth 32 <<< 8) ||| 0x8#32 := by
  rw [encode, assemble, BitVec.setWidth_ofNat_of_le_of_lt (by decide) h, setWidth_optionByte]
  rfl

theorem encode_decode_word {length : Nat} (h : length < 1024) :
    encode (.decode length) = (BitVec.ofNat 32 length <<< 16) ||| 0x9#32 := by
  rw [encode, assemble_length h, BitVec.or_comm]
  rfl

end Sys2Proof

namespace Sys2Proof.Machine

/-! ## The flag test (R141) -/

/-- Against a mask of one bit the test is that bit. -/
theorem isSet_twoPow (f : Byte) {k : Nat} (h : k < 8) : isSet f (BitVec.twoPow 8 k) = f.getLsbD k := by
  have nonzero : BitVec.twoPow 8 k ≠ 0#8 := fun zero => by
    simpa [h] using congrArg (BitVec.getLsbD · k) zero
  rw [isSet, BitVec.and_twoPow]
  cases f.getLsbD k with
  | true => simp [nonzero]
  | false => simp

theorem isSet_ackMask (f : Byte) : isSet f 0x01#8 = f.getLsbD 0 := isSet_twoPow f (k := 0) (by decide)

theorem isSet_finMask (f : Byte) : isSet f 0x02#8 = f.getLsbD 1 := isSet_twoPow f (k := 1) (by decide)

/-! ## `VERIFY` and `DECODE` read only BUF, which they keep (R151) -/

theorem verifyPacket_twice (P : Config) (s : State) : verifyPacket P (verifyPacket P s) = verifyPacket P s := rfl

theorem verifyPacket_after_decode (P : Config) (length : Nat) (s : State) :
    verifyPacket P (decodePacket P length (verifyPacket P s)) = decodePacket P length (verifyPacket P s) := rfl

theorem decodePacket_twice (P : Config) (length : Nat) (s : State) :
    decodePacket P length (decodePacket P length s) = decodePacket P length s := rfl

/-! ## The acknowledgment's bytes (R148) -/

theorem read_makeAck_buf (positive : Bool) (s : State) (a : Nat) : Memory.read (makeAck pcodec positive s).buf a =
    if a ≤ 3 then 0x00#8 else if a = 4 then ackFlags pcodec positive else Memory.read s.buf a := by
  rw [makeAck_buf, Memory.read_write, read_writeField_zero, pcodec_flagOff]
  grind

end Sys2Proof.Machine

namespace Sys2Proof.Says

open Sys2Proof.Machine

/-! ## Rejected words (R89, R183, R184) -/

/-- A word is illegal unless its reserved fields are 0 and a format admits the others. -/
theorem rejectedAs_unless_format {w : Word}
    (h : z0Field w = 0#4 → z1Field w = 0#6 → ¬ FormatAdmits (opField w) (lField w) (aField w)) : RejectedAs 1#3 w := by
  refine rejectedAs_illegal ((decode_error_iff w).mpr fun decodes => ?_)
  obtain ⟨z0, z1, admitted⟩ := (decodes_iff_format w).mp decodes
  exact h z0 z1 admitted

theorem rejectedAs_encode_over {n : Nat} (large : 995 < n) (fits : n < 1024) (isFin : Bool) :
    RejectedAs 2#3 (encode (.encode n isFin)) :=
  rejectedAs_operandFault (decode_encode (i := .encode n isFin) (decide_eq_true fits)) (operandFault_encode_over large isFin)

theorem rejectedAs_decode_outside {length : Nat} (outside : length < 5 ∨ 1000 < length) (fits : length < 1024) :
    RejectedAs 3#3 (encode (.decode length)) :=
  rejectedAs_operandFault (decode_encode (i := .decode length) (decide_eq_true fits)) (operandFault_decode_outside outside)

/-- R116 in the words of the statements. -/
theorem bufCrc_eq_bytesFrom (s : State) :
    bufCrc pcodec s.buf = crc32 ([0x00#8, 0x00#8, 0x00#8, 0x00#8] ++ bytesFrom s 4 996) := by
  rw [Memory.bufCrc_pcodec, slice_eq_bytesFrom]
  rfl

end Sys2Proof.Says

namespace Sys2Proof.Proofs

open Sys2Proof.Machine Sys2Proof.Says

/-- Settles O23: each mask is one bit. -/
theorem flagTestIsTheBit : Obligations.FlagTestIsTheBit :=
  ⟨fun _ _ _ => bne_iff_ne, fun f => ⟨isSet_ackMask f, isSet_finMask f⟩⟩

/-- Settles O21: T is the tested bit; the two masks are the only ones with a command. -/
theorem issetTestsOneBit : Obligations.IssetTestsOneBit := by
  refine ⟨fun s f => ?_, fun s f => ?_, fun f => issuedBy_of_encode (assemble_byte 1#10 f 0xB#4) rfl rfl,
    fun f => issuedBy_of_encode (assemble_byte 2#10 f 0xB#4) rfl rfl, fun w op reserved => ?_⟩
  · rw [← isSet_ackMask]
    exact exec_of_pass rfl s
  · rw [← isSet_finMask]
    exact exec_of_pass rfl s
  · refine rejectedAs_unless_format fun z0 z1 admitted => ?_
    have mask : lField w = 1#10 ∨ lField w = 2#10 := by simpa [FormatAdmits, op] using admitted
    have upper := ((legal_mask_iff _).mp mask).1
    simp [z0, z1, upper] at reserved

/-- Settles O22: the header is written and nothing beyond it; no register but PLEN and TXLEN. -/
theorem mkackMarshalsTheAcknowledgment : Obligations.MkackMarshalsTheAcknowledgment := by
  refine ⟨fun s positive => ⟨_, exec_of_pass rfl s, read_makeAck_buf positive s, rfl⟩,
    fun positive => issuedBy_of_encode (by cases positive <;> rfl) rfl rfl, fun w op reserved => ?_⟩
  refine rejectedAs_unless_format fun z0 z1 admitted => ?_
  have operands : (aField w).extractLsb' 1 7 = 0#7 ∧ lField w = 0#10 := by simpa [FormatAdmits, op] using admitted
  simp [z0, z1, operands] at reserved

/-- Settles O19: the field's four bytes, most significant first, are the word CHK takes. -/
theorem decodeUnmarshalsTheHeader : Obligations.DecodeUnmarshalsTheHeader := by
  refine ⟨fun s length h₁ h₂ => ?_, fun length h₁ h₂ => ?_, fun length => rejectedAs_decode_outside,
    fun w op reserved => ?_⟩
  · rw [← read4_eq_bigEndian]
    exact execDecode_of_pass ⟨h₁, h₂⟩ s
  · have fits : length < 1024 := by omega
    exact issuedBy_of_encode (encode_decode_word fits) (decide_eq_true fits) ((operandFault_decode length).mpr ⟨h₁, h₂⟩)
  · refine rejectedAs_unless_format fun z0 z1 admitted => ?_
    have operand : aField w = 0#8 := by simpa [FormatAdmits, op] using admitted
    simp [z0, z1, operand] at reserved

/-- Settles O20: the checksum is R116's, and it is compared with the field's four bytes. -/
theorem verifyComparesChecksumWithField : Obligations.VerifyComparesChecksumWithField := by
  refine ⟨fun s => ?_, fun s => ⟨_, exec_of_pass rfl s, ?_⟩, issuedBy_of_encode rfl rfl rfl,
    fun _ op => rejectedAs_operandOfFormatZ (by simp [op])⟩
  · rw [← bufCrc_eq_bytesFrom, ← read4_eq_bigEndian]
    exact exec_of_pass rfl s
  · exact (exec_of_pass rfl _).trans (congrArg Host.Outcome.next (verifyPacket_twice pcodec s))

end Sys2Proof.Proofs
end

section
/-! PROOFS of the family 41_codec, part 2: `ENCODE` (R142, R143), byte by byte for every configuration that meets R5. -/

namespace Sys2Proof

/-! ## The order of the packet's parts (R5) -/

theorem Config.Consistent.field_lt_flagOff {P : Config} (hP : P.Consistent) : P.ckOff + 3 < P.flagOff := by
  rw [hP.flagOff_eq, hP.ckSize_eq]
  omega

theorem Config.Consistent.flagOff_lt_payOff {P : Config} (hP : P.Consistent) : P.flagOff < P.payOff := by
  rw [hP.payOff_eq, hP.hdrSize_eq]
  omega

end Sys2Proof

namespace Sys2Proof.Machine

namespace Memory

/-! ## Runs of bytes -/

theorem slice_append (m : Memory) (lo k n : Nat) : slice m lo (k + n) = slice m lo k ++ slice m (lo + k) n := by
  rw [slice, ← List.range'_append_1, List.map_append, slice, slice]

theorem slice_eq_replicate {m : Memory} {lo n : Nat} {b : Byte} (h : ∀ x, lo ≤ x → x < lo + n → read m x = b) :
    slice m lo n = List.replicate n b := by
  refine List.eq_replicate_iff.mpr ⟨by simp [slice], fun c hc => ?_⟩
  obtain ⟨x, hx, rfl⟩ := List.mem_map.mp hc
  obtain ⟨h₁, h₂⟩ := List.mem_range'_1.mp hx
  exact h x h₁ h₂

end Memory

/-! ## The packet `ENCODE` leaves (R142) -/

/-- The field itself is not covered by the checksum (R116). -/
theorem bufCrc_write4_field {P : Config} (hP : P.Consistent) (m : Memory) (v : Word) :
    bufCrc P (Memory.write4 m P.ckOff v) = bufCrc P m := by
  refine Memory.bufCrc_congr P fun x hx => Memory.read_write4_outside v ?_
  have := hP.ckSize_eq
  omega

section
variable {P : Config} (hP : P.Consistent) (n : Nat) (isFin : Bool) (s : State)

/-- The stored field is the checksum the encoder keeps in ACC. -/
theorem read4_encodePacket : Memory.read4 (encodePacket P n isFin s).buf P.ckOff = (encodePacket P n isFin s).acc := by
  rw [encodePacket_buf, encodePacket_acc, Memory.read4_write4_same]

include hP

/-- ACC is the checksum of the packet as it is left, its field filled in. -/
theorem bufCrc_encodePacket : bufCrc P (encodePacket P n isFin s).buf = (encodePacket P n isFin s).acc := by
  rw [encodePacket_buf, encodePacket_acc, bufCrc_write4_field hP]

/-- The packet's bytes from the flags byte on. -/
theorem read_encodePacket_of_consistent {x : Nat} (hx : P.flagOff ≤ x) : Memory.read (encodePacket P n isFin s).buf x =
      if P.payOff + n ≤ x ∧ x < P.bufSize then P.fill
      else if x = P.flagOff then finFlags P isFin
      else Memory.read s.buf x := by
  have beyondField : P.ckOff + 3 < x := hP.field_lt_flagOff.trans_le hx
  rw [encodePacket_buf, Memory.read_write4_outside _ (.inr beyondField), framedBuffer, Memory.read_fillFrom,
    Memory.read_write, Memory.read_write4_outside _ (.inr beyondField)]

theorem read_encodePacket_flags : Memory.read (encodePacket P n isFin s).buf P.flagOff = finFlags P isFin := by
  have beforePayload := hP.flagOff_lt_payOff
  rw [read_encodePacket_of_consistent hP n isFin s (Nat.le_refl _), if_neg (by omega), if_pos rfl]

theorem read_encodePacket_payload {x : Nat} (h₁ : P.payOff ≤ x) (h₂ : x < P.payOff + n) :
    Memory.read (encodePacket P n isFin s).buf x = Memory.read s.buf x := by
  have beforePayload := hP.flagOff_lt_payOff
  rw [read_encodePacket_of_consistent hP n isFin s (by omega), if_neg (by omega), if_neg (by omega)]

theorem read_encodePacket_filler {x : Nat} (h₁ : P.payOff + n ≤ x) (h₂ : x < P.bufSize) :
    Memory.read (encodePacket P n isFin s).buf x = P.fill := by
  have beforePayload := hP.flagOff_lt_payOff
  rw [read_encodePacket_of_consistent hP n isFin s (by omega), if_pos ⟨h₁, h₂⟩]

end

/-- `ENCODE` writes BUF, ACC, PLEN and TXLEN. -/
theorem encodePacket_rest (P : Config) (n : Nat) (isFin : Bool) (s : State) : encodePacket P n isFin s =
    { s with buf := (encodePacket P n isFin s).buf, acc := (encodePacket P n isFin s).acc, plen := lengthBits n,
             txlen := lengthBits P.bufSize } := rfl

end Sys2Proof.Machine

namespace Sys2Proof.Says

open Sys2Proof.Machine

/-- From the flags byte to the end of the buffer the packet is flags, payload and filler. -/
theorem slice_encodePacket {n : Nat} (hn : n ≤ 995) (isFin : Bool) (s : State) :
    Memory.slice (encodePacket pcodec n isFin s).buf 4 996 =
      [finFlags pcodec isFin] ++ bytesFrom s 5 n ++ List.replicate (995 - n) 0x00#8 := by
  have flags : Memory.slice (encodePacket pcodec n isFin s).buf 4 1 = [finFlags pcodec isFin] :=
    congrArg (· :: []) (read_encodePacket_flags pcodec_consistent n isFin s)
  have payload : Memory.slice (encodePacket pcodec n isFin s).buf 5 n = bytesFrom s 5 n := by
    rw [← slice_eq_bytesFrom]
    exact Memory.slice_congr fun x => read_encodePacket_payload pcodec_consistent n isFin s
  have filler : Memory.slice (encodePacket pcodec n isFin s).buf (5 + n) (995 - n) = List.replicate (995 - n) 0x00#8 :=
    Memory.slice_eq_replicate fun x h₁ h₂ =>
      read_encodePacket_filler pcodec_consistent n isFin s h₁ (by rw [pcodec_bufSize]; omega)
  rw [show 996 = 1 + (n + (995 - n)) by omega, Memory.slice_append, Memory.slice_append, flags, payload, filler,
    List.append_assoc]

theorem encodePacket_acc_eq {n : Nat} (hn : n ≤ 995) (isFin : Bool) (s : State) : (encodePacket pcodec n isFin s).acc =
    crc32 ([0x00#8, 0x00#8, 0x00#8, 0x00#8] ++ [finFlags pcodec isFin] ++ bytesFrom s 5 n ++
      List.replicate (995 - n) 0x00#8) := by
  rw [← bufCrc_encodePacket pcodec_consistent, Memory.bufCrc_pcodec, slice_encodePacket hn]
  simp only [List.append_assoc]
  rfl

theorem fieldHolds_encodePacket (n : Nat) (isFin : Bool) (s : State) :
    FieldHolds (encodePacket pcodec n isFin s) (encodePacket pcodec n isFin s).acc := by
  simp [FieldHolds, byte, Memory.read_write4]

/-! ## Corner cases (R143) -/

set_option maxRecDepth 1000000 in
/-- The checksums of the two packets without payload (R143 (a)). -/
theorem crc32_emptyPacket :
    crc32 ([0x00#8, 0x00#8, 0x00#8, 0x00#8] ++ [0x02#8] ++ List.replicate 995 0x00#8) = 0x47E1BB20#32 ∧
    crc32 ([0x00#8, 0x00#8, 0x00#8, 0x00#8] ++ [0x00#8] ++ List.replicate 995 0x00#8) = 0x060B1780#32 := by
  decide +kernel

/-- The header: the field's four bytes and the flags. -/
theorem bytesFrom_header {s : State} {v : Word} (h : FieldHolds s v) : bytesFrom s 0 5 =
    [v.extractLsb' 24 8, v.extractLsb' 16 8, v.extractLsb' 8 8, v.extractLsb' 0 8, byte s 4] := by
  obtain ⟨h₀, h₁, h₂, h₃⟩ := h
  rw [← h₀, ← h₁, ← h₂, ← h₃]
  rfl

theorem bytesFrom_header_emptyPacket (isFin : Bool) (s : State) : bytesFrom (encodePacket pcodec 0 isFin s) 0 5 =
    if isFin then [0x47#8, 0xE1#8, 0xBB#8, 0x20#8, 0x02#8] else [0x06#8, 0x0B#8, 0x17#8, 0x80#8, 0x00#8] := by
  have sum : (encodePacket pcodec 0 isFin s).acc = if isFin then 0x47E1BB20#32 else 0x060B1780#32 := by
    rw [encodePacket_acc_eq (Nat.zero_le _)]
    cases isFin with
    | true => exact crc32_emptyPacket.1
    | false => exact crc32_emptyPacket.2
  have flags : byte (encodePacket pcodec 0 isFin s) 4 = finFlags pcodec isFin :=
    read_encodePacket_flags pcodec_consistent 0 isFin s
  rw [bytesFrom_header (fieldHolds_encodePacket 0 isFin s), sum, flags]
  cases isFin <;> rfl

/-- A piece of the state that is kept where it is not written, and where it is written is the same as before. -/
theorem same_of_kept_or_rewritten {α : Type} {written : Bool} {x y : α} (kept : written = false → y = x)
    (again : written = true → y = x) : y = x := by
  cases written with
  | true => exact again rfl
  | false => exact kept rfl

/-- A command that reads nothing of what it writes may be repeated: the second run reads what the first one read (R68). -/
theorem effect_repeatable {i : Instr} (bytes : ∀ a, readsByte i a = true → writesByte i a = false)
    (acc : readsAcc i = true → writesAcc i = false) (s : State) :
    SameSpecState (effect pcodec i s) (effect pcodec i (effect pcodec i s)) :=
  have first := effect_keepsUnwritten i s
  have agree : AgreeOnRead i (effect pcodec i s) s :=
    ⟨fun a h => first.bytes a (bytes a h), fun h => first.acc (acc h)⟩
  have k := effect_keepsUnwritten i (effect pcodec i s)
  have w := effect_agreeOnWritten agree
  have c := k.sameControl
  { bytes := fun a => same_of_kept_or_rewritten (k.bytes a) (w.bytes a)
    acc := same_of_kept_or_rewritten k.acc w.acc
    chk := same_of_kept_or_rewritten k.chk w.chk
    flg := same_of_kept_or_rewritten k.flg w.flg
    plen := same_of_kept_or_rewritten k.plen w.plen
    txlen := same_of_kept_or_rewritten k.txlen w.txlen
    finfo := c.finfo
    cmdr := c.cmdr
    busy := c.busy
    fault := c.fault
    cause := c.cause
    valid := same_of_kept_or_rewritten k.valid w.valid
    tFlag := same_of_kept_or_rewritten k.tFlag w.tFlag }

theorem encode_reads_unwritten (n : Nat) (isFin : Bool) (a : Nat) (h : readsByte (.encode n isFin) a = true) :
    writesByte (.encode n isFin) a = false := by
  simp only [readsByte, writesByte, decide_eq_true_eq, decide_eq_false_iff_not] at h ⊢
  omega

/-- Every byte of the packet is written from the payload, or is the payload. -/
theorem samePacket_encodePacket {s s' : State} {n : Nat} (isFin : Bool)
    (agree : AgreeOnRead (.encode n isFin) s s') :
    SamePacket (encodePacket pcodec n isFin s) (encodePacket pcodec n isFin s') := by
  intro a ha
  by_cases payload : 5 ≤ a ∧ a < 5 + n
  · rw [byte_encodePacket_payload (by omega), byte_encodePacket_payload (by omega)]
    exact agree.bytes a (decide_eq_true payload)
  · exact effect_byte_agree agree (decide_eq_true (by omega))

end Sys2Proof.Says

namespace Sys2Proof.Proofs

open Sys2Proof.Machine Sys2Proof.Says

/-- Settles O17: the packet byte by byte, and the checksum of those bytes. -/
theorem encodeMarshalsThePacket : Obligations.EncodeMarshalsThePacket := by
  refine ⟨fun s n isFin hn => ⟨_, execEncode_of_pass hn isFin s, encodePacket_acc_eq hn isFin s,
      fieldHolds_encodePacket n isFin s, read_encodePacket_flags pcodec_consistent n isFin s,
      fun a => read_encodePacket_payload pcodec_consistent n isFin s,
      fun a h₁ h₂ => read_encodePacket_filler pcodec_consistent n isFin s h₁ (Nat.lt_succ_of_le h₂),
      fun a h => byte_encodePacket_payload (by omega) isFin s, encodePacket_rest pcodec n isFin s⟩,
    fun n isFin hn => ?_, fun n isFin large fits => rejectedAs_encode_over large fits isFin, fun w op reserved => ?_⟩
  · have fits : n < 1024 := by omega
    exact issuedBy_of_encode (encode_encode_word fits isFin) (decide_eq_true fits) ((operandFault_encode n isFin).mpr hn)
  · refine rejectedAs_unless_format fun z0 z1 admitted => ?_
    have upper : (aField w).extractLsb' 1 7 = 0#7 := by simpa [FormatAdmits, op] using admitted
    simp [z0, z1, upper] at reserved

/-- Settles O18: the packet is a function of the payload, which `ENCODE` reads and does not write. -/
theorem encodeCornerCases : Obligations.EncodeCornerCases := by
  refine ⟨fun s isFin => ⟨_, execEncode_of_pass (Nat.zero_le _) isFin s, fun a h₁ h₂ => ?_,
      bytesFrom_header_emptyPacket isFin s⟩,
    fun s isFin => ⟨_, execEncode_of_pass (Nat.le_refl _) isFin s, fun a h => byte_encodePacket_payload (by omega) isFin s⟩,
    fun n isFin h₁ h₂ => rejectedAs_encode_over h₁ (Nat.lt_succ_of_le h₂) isFin,
    fun s s' n isFin hn payload => ?_, fun s n isFin hn => ?_⟩
  · exact read_encodePacket_filler pcodec_consistent 0 isFin s h₁ (Nat.lt_succ_of_le h₂)
  · have agree : AgreeOnRead (.encode n isFin) s s' := by
      refine ⟨fun a h => ?_, fun h => nomatch h⟩
      obtain ⟨h₁, h₂⟩ := of_decide_eq_true h
      exact payload a h₁ h₂
    exact ⟨_, _, execEncode_of_pass hn isFin s, execEncode_of_pass hn isFin s', samePacket_encodePacket isFin agree,
      effect_acc_agree agree rfl⟩
  · exact ⟨_, _, execEncode_of_pass hn isFin s, execEncode_of_pass hn isFin _,
      effect_repeatable (encode_reads_unwritten n isFin) (fun h => nomatch h) s⟩

end Sys2Proof.Proofs
end

section
/-! PROOFS of the family 41_codec, part 3: what `VERIFY` and `DECODE` find in a packet, on any block that holds its bytes (R149 to
R151). -/

namespace Sys2Proof.Machine

/-! ## Round trip for every configuration that meets R5 (R149) -/

theorem verifyPacket_encodePacket_valid {P : Config} (hP : P.Consistent) (n : Nat) (isFin : Bool) (s : State) :
    (verifyPacket P (encodePacket P n isFin s)).valid = true := by
  rw [verifyPacket_valid, bufCrc_encodePacket hP, read4_encodePacket, checksumMatches, beq_self_eq_true]

/-- A datagram of the whole buffer carries the largest payload. -/
theorem payloadLength_bufSize {P : Config} (hP : P.Consistent) : (payloadLength P P.bufSize).toNat = P.maxPayload := by
  have fits : P.bufSize - P.hdrSize < 1024 := by
    have := hP.bufSize_addressable
    have := hP.hdrSize_eq
    omega
  rw [payloadLength, lengthBits_toNat fits, hP.maxPayload_eq]

end Sys2Proof.Machine

namespace Sys2Proof.Says

open Sys2Proof.Machine

/-! ## Blocks that hold the same packet -/

section
variable {s r : State} (h : SamePacket s r)
include h

theorem SamePacket.bufCrc_eq : bufCrc pcodec s.buf = bufCrc pcodec r.buf :=
  Memory.bufCrc_pcodec_congr fun a _ ha => h a ha

theorem SamePacket.checksumField_eq : s.checksumField = r.checksumField :=
  Memory.read4_congr fun a _ ha => h a (by rw [pcodec_ckOff] at ha; omega)

theorem SamePacket.verify_valid : (verifyPacket pcodec s).valid = (verifyPacket pcodec r).valid := by
  have field : Memory.read4 s.buf pcodec.ckOff = Memory.read4 r.buf pcodec.ckOff := h.checksumField_eq
  rw [verifyPacket_valid, verifyPacket_valid, h.bufCrc_eq, field]

theorem SamePacket.decode_chk (length : Nat) : (decodePacket pcodec length s).chk = (decodePacket pcodec length r).chk :=
  h.checksumField_eq

theorem SamePacket.decode_flg (length : Nat) : (decodePacket pcodec length s).flg = (decodePacket pcodec length r).flg :=
  h 4 (by decide)

end

/-! ## An acknowledgment (R150, R152) -/

theorem verifyPacket_makeAck (positive : Bool) (s : State) :
    (verifyPacket pcodec (makeAck pcodec positive s)).chk = 0#32 ∧
    (verifyPacket pcodec (makeAck pcodec positive s)).valid = (bufCrc pcodec (makeAck pcodec positive s).buf == 0#32) := by
  obtain ⟨field, _, _⟩ := makeAck_views positive s
  rw [State.checksumField] at field
  rw [verifyPacket_chk, verifyPacket_valid, field, checksumMatches]
  exact ⟨rfl, rfl⟩

theorem decodePacket_makeAck_flg (length : Nat) (positive : Bool) (s : State) :
    (decodePacket pcodec length (makeAck pcodec positive s)).flg = ackFlags pcodec positive := by
  rw [decodePacket_flg, makeAck_buf, Memory.read_write_same]

theorem isSet_ackFlags (positive : Bool) : isSet (ackFlags pcodec positive) pcodec.ackMask = positive := by
  cases positive <;> decide

end Sys2Proof.Says

namespace Sys2Proof.Proofs

open Sys2Proof.Machine Sys2Proof.Says

/-- Settles O26: the field holds the checksum of a buffer that differs from the packet in the field alone. -/
theorem roundTripHoldsForEveryConfiguration : Obligations.RoundTripHoldsForEveryConfiguration := by
  intro P s n isFin hP _
  refine ⟨verifyPacket_encodePacket_valid hP n isFin s, ?_, ?_, ?_, fun a => read_encodePacket_payload hP n isFin s,
    fun a => read_encodePacket_filler hP n isFin s⟩
  · exact read_encodePacket_flags hP n isFin s
  · rw [decodePacket_chk, read4_encodePacket]
  · rw [decodePacket_plen, payloadLength_bufSize hP]

/-- Settles O25: the block that holds the packet finds in it what the encoder's block would. -/
theorem encodedPacketVerifiesAndDecodes : Obligations.EncodedPacketVerifiesAndDecodes := by
  refine fun s n isFin hn => ⟨_, execEncode_of_pass hn isFin s,
    fun a => read_encodePacket_payload pcodec_consistent n isFin s,
    fun a h₁ h₂ => read_encodePacket_filler pcodec_consistent n isFin s h₁ (Nat.lt_succ_of_le h₂),
    fun r same => ⟨⟨_, exec_of_pass rfl r, ?_⟩, _, execDecode_of_pass (by decide) r, ?_, ?_, rfl⟩⟩
  · exact same.verify_valid.trans (verifyPacket_encodePacket_valid pcodec_consistent n isFin s)
  · exact (same.decode_flg 1000).trans (read_encodePacket_flags pcodec_consistent n isFin s)
  · exact (same.decode_chk 1000).trans (read4_encodePacket n isFin s)

/-- Settles O28: an acknowledgment's field is zero, and its flags byte is the bit. -/
theorem acknowledgmentIsReadBackNotVerified : Obligations.AcknowledgmentIsReadBackNotVerified := by
  refine fun s positive => ⟨_, exec_of_pass rfl s, ⟨_, exec_of_pass rfl _, verifyPacket_makeAck positive s⟩,
    fun r same => ⟨_, _, execDecode_of_pass (by decide) r, rfl, exec_of_pass rfl _, ?_⟩⟩
  have flags : (decodePacket pcodec 5 r).flg = ackFlags pcodec positive :=
    (same.decode_flg 5).trans (decodePacket_makeAck_flg 5 positive s)
  rw [flags]
  exact isSet_ackFlags positive

/-- Settles O29: both read only the packet, and keep it. -/
theorem verifyAndDecodeAreRepeatable : Obligations.VerifyAndDecodeAreRepeatable := by
  intro s r same
  have verified : SamePacket (verifyPacket pcodec s) (verifyPacket pcodec r) := by
    intro a ha
    rw [byte, byte, verifyPacket_buf, verifyPacket_buf]
    exact same a ha
  refine ⟨_, _, _, _, exec_of_pass rfl s, execDecode_of_pass (by decide) _, exec_of_pass rfl r,
    execDecode_of_pass (by decide) _, same.verify_valid, verified.decode_chk 1000, verified.decode_flg 1000, rfl,
    fun a => ?_, ?_, ?_⟩
  · rw [effect_verify, byte, decodePacket_buf, verifyPacket_buf]
  · exact (exec_of_pass rfl _).trans (congrArg Host.Outcome.next (verifyPacket_after_decode pcodec 1000 s))
  · exact (execDecode_of_pass (by decide) _).trans (congrArg Host.Outcome.next (decodePacket_twice pcodec 1000 _))

end Sys2Proof.Proofs
end

section
/-! PROOFS of the family 60_exceptions: which faults there are (R181), what taking one does (R186, R188), and that the block then
stays as it is until `Reset` (R189, R190). -/

namespace Sys2Proof.Machine

/-- The two operand faults, each with its command and its range (R183, R184). -/
theorem operandFault_some_cases {i : Instr} {c : FaultCause} (h : operandFault pcodec i = some c) :
    (∃ n isFin, i = .encode n isFin ∧ 995 < n ∧ c = .capacityFault) ∨
    (∃ length, i = .decode length ∧ (length < 5 ∨ 1000 < length) ∧ c = .lengthFault) := by
  cases i with
  | encode n isFin =>
    simp only [operandFault, pcodec_maxPayload, Option.ite_none_right_eq_some, Option.some.injEq] at h
    exact .inl ⟨n, isFin, rfl, h.1, h.2.symm⟩
  | decode length =>
    simp only [operandFault, pcodec_hdrSize, pcodec_bufSize, Option.ite_none_right_eq_some, Option.some.injEq] at h
    exact .inr ⟨length, rfl, h.1, h.2.symm⟩
  | _ => cases h

/-- The end of a run with a fault taken is never a good end (R222). -/
theorem goodEnd_of_fault {s : State} (h : s.fault = true) : s.goodEnd = false := by
  simp [State.goodEnd, h]

end Sys2Proof.Machine

namespace Sys2Proof.Says

open Sys2Proof.Machine

/-! ## What fault entry leaves (R186, R188) -/

theorem sameSpecState_answerUnspecifiedWord (s : State) : SameSpecState s s.answerUnspecifiedWord :=
  { SameSpecState.refl s with }

theorem sameSpecState_enterFault (c : FaultCause) (info : Word) (s : State) :
    SameSpecState { s with fault := true, cause := c.code, finfo := info, busy := false } (s.enterFault c info) :=
  { SameSpecState.refl (s.enterFault c info) with }

/-- A `BusyFault` puts a free value (S2) into every byte of BUF and into every result register and flag. -/
theorem busyFault_leaves_free_values {info : Word} {s t : State} (h : SameSpecState (raiseFault .busyFault info s) t) :
    (∀ a, a < 1000 → byte t a = Config.freeBufByte s.draws a) ∧
    t.acc = Config.freeAcc s.draws ∧ t.chk = Config.freeChk s.draws ∧ t.flg = Config.freeFlg s.draws ∧
    t.plen = Config.freePlen s.draws ∧ t.txlen = Config.freeTxlen s.draws ∧ t.valid = Config.freeValid s.draws ∧
    t.t = Config.freeT s.draws := by
  refine ⟨fun a ha => ?_, h.acc, h.chk, h.flg, h.plen, h.txlen, h.valid, h.tFlag⟩
  have inside : a < pcodec.bufSize := ha
  exact (h.bytes a).trans ((Memory.read_unspecified pcodec s.draws a).trans (if_pos inside))

/-- In phase BUSY a host step but a read of STATUS and `Reset` leaves what the `BusyFault` leaves; only the answer differs. -/
theorem hostStep_busyFault_sameSpecState {s : State} {h : HostStep} (hp : s.phase = .busy) (status : h ≠ .regRead 1#3)
    (reset : h ≠ .reset) : SameSpecState (raiseFault .busyFault s.cmdr s) (hostStep h s) := by
  rcases hostStep_busy_cases h hp with ⟨e, _⟩ | ⟨e, _⟩ | ⟨_, _, e | e | e⟩
  · exact absurd e status
  · exact absurd e reset
  · exact e ▸ sameSpecState_answer none _
  · exact e ▸ sameSpecState_answerUnspecifiedByte _
  · exact e ▸ sameSpecState_answerUnspecifiedWord _

/-! ## Phase FAULTED (R189, R190) -/

/-- The byte a read gives back in phase FAULTED: the held one, beyond the buffer a free value (S3). -/
theorem bufRead_reply_faulted {s : State} (hp : s.phase = .faulted) (a : BufAddr) : (bufRead a s).reply =
    some (.byte (if a.toNat ≤ 999 then byte s a.toNat else Config.freeReplyByte s.draws)) := by
  by_cases ha : a.toNat ≤ 999
  · rw [bufRead_inside (by simp [hp]) ha, State.answer_reply, if_pos ha]
  · rw [bufRead_faulted_beyond hp (by omega), State.answerUnspecifiedByte_reply, if_neg ha]

/-- The host's turn clears FAULT by a `Reset` alone. -/
theorem hostMove_clears_fault {s : State} (hs : s.fault = true) (ht : (hostMove s).fault = false) :
    ∃ rest, s.host = .act .reset :: rest := by
  rcases hostMove_same_or_hostStep s with same | ⟨h, rest, hh, e⟩
  · simp [same.fault, hs] at ht
  · by_cases hr : h = .reset
    · exact ⟨rest, hr ▸ hh⟩
    · have frozen : SameSpecState (s.passTurn.withHost rest) (hostStep h (s.passTurn.withHost rest)) :=
        hostStep_faulted_sameSpecState ((phase_faulted_iff _).mpr hs) hr
      simp [e, frozen.fault, hs] at ht

end Sys2Proof.Says

namespace Sys2Proof.Proofs

open Sys2Proof.Machine Sys2Proof.Says

/-- Settles O35, by the phase: in IDLE the buffer's end and the checks of the issue, in BUSY the gate; a faulted block takes no
further fault. -/
theorem everyFaultIsOneOfTheFive : Obligations.EveryFaultIsOneOfTheFive := by
  intro s h hs ht
  cases hp : s.phase with
  | idle =>
    rcases hostStep_idle_cases h hp with
      ⟨_, e⟩ | ⟨_, r, e⟩ | ⟨a, rfl, ha, e⟩ | ⟨a, b, rfl, ha, e⟩ | ⟨a, b, _, _, e⟩ | ⟨w, rfl, e⟩
    · simp [e] at ht
    · simp [e, hs] at ht
    · exact .inr (.inr (.inr (.inl ⟨a, .inl rfl, rfl, ha, by rw [e]; exact ⟨rfl, rfl⟩⟩)))
    · exact .inr (.inr (.inr (.inl ⟨a, .inr ⟨b, rfl⟩, rfl, ha, by rw [e]; exact ⟨rfl, rfl⟩⟩)))
    · simp [e, hs] at ht
    · rcases issue_cases w s with ⟨illegal, e'⟩ | ⟨i, c, hi, hc, e'⟩ | ⟨_, _, _, e'⟩ <;> rw [e'] at e
      · exact .inl ⟨w, rfl, rfl, illegal, by rw [e]; exact ⟨rfl, rfl⟩⟩
      · rcases operandFault_some_cases hc with ⟨n, isFin, rfl, hn, rfl⟩ | ⟨length, rfl, hl, rfl⟩
        · exact .inr (.inl ⟨w, n, isFin, rfl, rfl, hi, hn, by rw [e]; exact ⟨rfl, rfl⟩⟩)
        · exact .inr (.inr (.inl ⟨w, length, rfl, rfl, hi, hl, by rw [e]; exact ⟨rfl, rfl⟩⟩))
      · simp [e, hs] at ht
  | busy =>
    rcases hostStep_busy_cases h hp with ⟨_, e⟩ | ⟨_, e⟩ | ⟨status, reset, _⟩
    · simp [e, hs] at ht
    · simp [e] at ht
    · have same := hostStep_busyFault_sameSpecState hp status reset
      exact .inr (.inr (.inr (.inr ⟨status, reset, rfl, same.cause, same.finfo⟩)))
  | faulted => simp [phase_faulted_iff, hs] at hp

/-- Settles O36: fault entry, alone for a precise cause, after the scrambling for a `BusyFault`. -/
theorem faultEntryWritesTheFaultState : Obligations.FaultEntryWritesTheFaultState := by
  refine ⟨fun c info s => ?_, fun c info s hc => ?_, fun info s => ?_⟩
  · exact ⟨raiseFault_fault .., raiseFault_cause .., raiseFault_finfo .., raiseFault_busy .., raiseFault_phase ..,
      raiseFault_cmdr ..⟩
  · rw [raiseFault_precise hc]
    exact sameSpecState_enterFault c info s
  · exact ⟨_, rfl, busyFault_leaves_free_values (SameSpecState.refl _)⟩

/-- Settles O37: the step leaves what the `BusyFault` leaves, phase FAULTED among it, and there the engine has no turn. -/
theorem busyFaultLosesBufferAndResults : Obligations.BusyFaultLosesBufferAndResults := by
  intro s h hp status reset
  have same := hostStep_busyFault_sameSpecState hp status reset
  have faulted : (hostStep h s).phase = .faulted := same.phase.trans (raiseFault_phase ..)
  have noCompletion : engineTurn (hostStep h s) = false := engineTurn_of_not_busy (by simp [faulted])
  obtain ⟨bytes, acc, chk, flg, plen, txlen, valid, tFlag⟩ := busyFault_leaves_free_values same
  refine ⟨faulted, same.cause, same.finfo, same.busy, same.cmdr, noCompletion, bytes, acc, chk, flg, plen, txlen, valid,
    tFlag, ?_, ?_⟩
  · rintro a rfl
    exact congrArg State.reply (bufRead_busy hp a)
  · rintro r rfl
    exact congrArg State.reply (regRead_busy hp (by simpa using status))

/-- Settles O38: the word decodes and is rejected at its issue; the state it leaves is faulted. -/
theorem capacityFaultIsNotRecoverable : Obligations.CapacityFaultIsNotRecoverable :=
  fun _ isFin large fits => ⟨rejectedAs_encode_over large (Nat.lt_succ_of_le fits) isFin,
    fun _ _ hr => hostStep_faulted_sameSpecState rfl hr⟩

/-- Settles O39: the frozen gate lets reads answer and discards the rest. -/
theorem faultedBlockIsFrozen : Obligations.FaultedBlockIsFrozen := by
  intro s hp
  have notBusy : s.phase ≠ .busy := by simp [hp]
  exact ⟨fun _ hr => hostStep_faulted_sameSpecState hp hr, fun r => congrArg State.reply (regRead_held r notBusy),
    bufRead_reply_faulted hp, step_host (engineTurn_of_not_busy notBusy), goodEnd_of_fault ((phase_faulted_iff s).mp hp)⟩

/-- Settles O42: with FAULT set the engine has no turn, and the host's turn clears it by `Reset` alone. -/
theorem onlyResetClearsFault : Obligations.OnlyResetClearsFault := by
  intro s t h hs ht
  have notBusy : s.phase ≠ .busy := by simp [(phase_faulted_iff s).mpr hs]
  have turn := engineTurn_of_not_busy notBusy
  rw [step_host turn] at h
  cases h
  exact ⟨turn, hostMove_clears_fault hs ht⟩

end Sys2Proof.Proofs
end

section
/-! PROOFS of the family 70_reset_and_hazards: which steps change BUF and the results (R217, R219), and that polling does not keep
a command from its completion (R221). -/

namespace Sys2Proof.Machine

/-! ## The engine's step, whatever the operands (R54, R96) -/

theorem exec_of_fault {i : Instr} {c : FaultCause} (faults : operandFault pcodec i = some c) (s : State) :
    exec i s = .next (s.enterFault c (encode i)) := by
  cases i with
  | encode n isFin => exact checked_of_fault faults
  | decode length => exact checked_of_fault faults
  | _ => cases faults

/-- A command has its effect, or takes the fault of its operand, which is precise. -/
theorem exec_cases {i : Instr} {s u : State} (h : exec i s = .next u) :
    u = effect pcodec i s ∨ ∃ c, u = s.enterFault c (encode i) := by
  cases check : operandFault pcodec i with
  | none =>
    rw [exec_of_pass check] at h
    injection h with h
    exact .inl h.symm
  | some c =>
    rw [exec_of_fault check] at h
    injection h with h
    exact .inr ⟨c, h.symm⟩

/-! ## Polls (R94, R221) -/

/-- What polling changes: the lines left, the last answer, the turns left before the completion. -/
def State.afterPolls (left : List HostItem) (r : Option Reply) (turns : Nat) (s : State) : State :=
  { s with host := left, reply := r, delay := turns }

/-- No command reads or writes what polling changes. -/
theorem effect_afterPolls (P : Config) (i : Instr) (left : List HostItem) (r : Option Reply) (turns : Nat) (s : State) :
    effect P i (s.afterPolls left r turns) = (effect P i s).afterPolls left r turns := by
  cases i <;> rfl

end Sys2Proof.Machine

namespace Sys2Proof.Says

open Sys2Proof.Machine

/-! ## What a step does to BUF and the results (R217, R219) -/

/-- BUF, the result registers and the condition flags are the same; CMDR, the fault state and BUSY may differ. -/
structure SameResults (s t : State) : Prop where
  bytes : ∀ a, byte t a = byte s a
  acc : t.acc = s.acc
  chk : t.chk = s.chk
  flg : t.flg = s.flg
  plen : t.plen = s.plen
  txlen : t.txlen = s.txlen
  valid : t.valid = s.valid
  tFlag : t.t = s.t

theorem SameSpecState.sameResults {s t : State} (h : SameSpecState s t) : SameResults s t := { h with }

theorem SameResults.trans {s t u : State} (h : SameResults s t) (h' : SameResults t u) : SameResults s u where
  bytes a := (h'.bytes a).trans (h.bytes a)
  acc := h'.acc.trans h.acc
  chk := h'.chk.trans h.chk
  flg := h'.flg.trans h.flg
  plen := h'.plen.trans h.plen
  txlen := h'.txlen.trans h.txlen
  valid := h'.valid.trans h.valid
  tFlag := h'.tFlag.trans h.tFlag

theorem sameResults_enterFault (c : FaultCause) (w : Word) (s : State) : SameResults s (s.enterFault c w) :=
  { SameSpecState.refl s with }

theorem sameResults_finish (s : State) : SameResults s s.finish :=
  { SameSpecState.refl s with }

theorem sameResults_issue (w : Word) (s : State) : SameResults s (issue w s) := by
  rcases issue_cases w s with ⟨_, e⟩ | ⟨_, c, _, _, e⟩ | ⟨_, _, _, e⟩
  · exact e ▸ sameResults_enterFault .illegalCommand w s
  · exact e ▸ sameResults_enterFault c w s
  · exact e ▸ { SameSpecState.refl s with }

/-- A host step leaves BUF and the results, or is an accepted `BufWrite`, `Reset` or a `BusyFault`. -/
theorem hostStep_results_cases (h : HostStep) (s : State) :
    SameResults s (hostStep h s) ∨
    (s.phase = .idle ∧ ∃ a b, h = .bufWrite a b ∧ a.toNat ≤ 999 ∧ SameResults (s.storeByte a.toNat b) (hostStep h s)) ∨
    h = .reset ∨ BusyFaults s (hostStep h s) := by
  cases hp : s.phase with
  | idle =>
    rcases hostStep_idle_cases h hp with
      ⟨e, _⟩ | ⟨_, r, e⟩ | ⟨a, _, _, e⟩ | ⟨a, b, _, _, e⟩ | ⟨a, b, e', ha, e⟩ | ⟨w, _, e⟩
    · exact .inr (.inr (.inl e))
    · exact .inl (e ▸ (sameSpecState_answer r s).sameResults)
    · exact .inl (e ▸ (sameResults_enterFault _ _ s).trans (sameSpecState_answerUnspecifiedByte _).sameResults)
    · exact .inl (e ▸ (sameResults_enterFault _ _ s).trans (sameSpecState_answer none _).sameResults)
    · exact .inr (.inl ⟨rfl, a, b, e', by omega, e ▸ (sameSpecState_answer none _).sameResults⟩)
    · exact .inl (e ▸ (sameResults_issue w s).trans (sameSpecState_answer none _).sameResults)
  | busy =>
    rcases hostStep_busy_cases h hp with ⟨_, e⟩ | ⟨e, _⟩ | ⟨status, reset, _⟩
    · exact .inl (e ▸ (sameSpecState_answer _ s).sameResults)
    · exact .inr (.inr (.inl e))
    · have same := hostStep_busyFault_sameSpecState hp status reset
      exact .inr (.inr (.inr ⟨hp, same.phase.trans (raiseFault_phase ..), same.cause⟩))
  | faulted =>
    by_cases reset : h = .reset
    · exact .inr (.inr (.inl reset))
    · exact .inl (hostStep_faulted_sameSpecState hp reset).sameResults

/-- The same of the host's turn, in the terms of its script. -/
theorem hostMove_results_cases (s : State) :
    SameResults s (hostMove s) ∨
    (s.phase = .idle ∧ ∃ a b rest, s.host = .act (.bufWrite a b) :: rest ∧ a.toNat ≤ 999 ∧
      SameResults (s.storeByte a.toNat b) (hostMove s)) ∨
    (∃ rest, s.host = .act .reset :: rest) ∨ BusyFaults s (hostMove s) := by
  rcases hostMove_same_or_hostStep s with same | ⟨h, rest, hh, e⟩
  · exact .inl same.sameResults
  · have turn := (sameSpecState_passTurn_withHost rest s).sameResults
    rw [e]
    rcases hostStep_results_cases h (s.passTurn.withHost rest) with
      same | ⟨hp, a, b, rfl, ha, same⟩ | rfl | busyFault
    · exact .inl (turn.trans same)
    · have store : SameResults (s.storeByte a.toNat b) ((s.passTurn.withHost rest).storeByte a.toNat b) :=
        { turn with bytes := fun _ => rfl }
      exact .inr (.inl ⟨hp, a, b, rest, hh, ha, store.trans same⟩)
    · exact .inr (.inr (.inl ⟨rest, hh⟩))
    · exact .inr (.inr (.inr busyFault))

/-! ## A piece of BUF or of the results, and its writers -/

section
variable {α : Type} {piece : State → α} {writes : Instr → Bool} {s t : State}
  (respects : ∀ {s t}, SameResults s t → piece t = piece s)
  (kept : ∀ {i s t}, KeepsUnwritten i s t → writes i = false → piece t = piece s)
include respects kept

/-- A completion changes a piece only if the footprint table (R68) gives it to the command. -/
theorem completion_writes {i : Instr} {u : State} (h : exec i s = .next u) (changed : piece u.finish ≠ piece s) :
    writes i = true := by
  rw [respects (sameResults_finish u)] at changed
  rcases exec_cases h with rfl | ⟨c, rfl⟩
  · by_contra unlisted
    exact changed (kept (effect_keepsUnwritten i s) (by simpa using unlisted))
  · exact absurd (respects (sameResults_enterFault c (encode i) s)) changed

/-- What changes a piece: an accepted `BufWrite`, the completion of a command that writes it, `Reset`, a `BusyFault`. -/
theorem changed_piece_cases (h : step s = .next t) (changed : piece t ≠ piece s) :
    (s.phase = .idle ∧ ∃ a b rest, s.host = .act (.bufWrite a b) :: rest ∧ a.toNat ≤ 999 ∧
      piece t = piece (s.storeByte a.toNat b)) ∨
    (∃ i, Completes s i ∧ writes i = true) ∨ Resets s ∨ BusyFaults s t := by
  rcases step_cases h with ⟨turn, i, u, hi, hu, rfl⟩ | ⟨turn, rfl⟩
  · exact .inr (.inl ⟨i, ⟨turn, hi⟩, completion_writes respects kept hu changed⟩)
  · rcases hostMove_results_cases s with same | ⟨hp, a, b, rest, hh, ha, same⟩ | resets | busyFault
    · exact absurd (respects same) changed
    · exact .inl ⟨hp, a, b, rest, hh, ha, respects same⟩
    · exact .inr (.inr (.inl ⟨turn, resets⟩))
    · exact .inr (.inr (.inr busyFault))

/-- A `BufWrite` changes BUF alone. -/
theorem changed_result_cases (outsideBuf : ∀ a b s, piece (State.storeByte a b s) = piece s) (h : step s = .next t)
    (changed : piece t ≠ piece s) : (∃ i, Completes s i ∧ writes i = true) ∨ Resets s ∨ BusyFaults s t := by
  rcases changed_piece_cases respects kept h changed with ⟨_, a, b, _, _, _, stored⟩ | writers
  · exact absurd (stored.trans (outsideBuf _ b s)) changed
  · exact writers

end

/-! ## A host that only polls (R221) -/

theorem hostMove_polls {s : State} (polls : ∀ x ∈ s.host, Polls x) :
    ∃ left r, hostMove s = s.afterPolls left r (s.delay - 1) := by
  rcases hostMove_cases s with ⟨_, e⟩ | ⟨_, _, _, e⟩ | ⟨rest, _, _, e⟩ | ⟨h, rest, hh, e⟩
  · exact ⟨s.host, s.reply, e⟩
  · exact ⟨s.host, _, e⟩
  · exact ⟨rest, _, e⟩
  · have status : h = .regRead 1#3 := by simpa [Polls] using polls (.act h) (by simp [hh])
    rw [status, hostStep, regRead_status] at e
    exact ⟨rest, _, e⟩

/-- While the latency runs, each turn of a polling host is one turn less. -/
theorem run_polls {k : Nat} {s : State} (hp : s.phase = .busy) (hd : s.delay = k) (polls : ∀ x ∈ s.host, Polls x) :
    ∃ left r, ∀ n, Host.Core.run core (k + n) s = Host.Core.run core n (s.afterPolls left r 0) := by
  induction k generalizing s with
  | zero =>
    have same : s.afterPolls s.host s.reply 0 = s := by rw [← hd]; rfl
    exact ⟨s.host, s.reply, fun n => by rw [same, Nat.zero_add]⟩
  | succ k ih =>
    have turn : step s = .next (hostMove s) := step_host (engineTurn_eq_false (.inr (by omega)))
    have fewer : ∀ x ∈ (hostMove s).host, Polls x := fun x hx => polls x ((hostMove_host_suffix s).subset hx)
    obtain ⟨left, r, poll⟩ := hostMove_polls polls
    rw [poll] at turn fewer
    obtain ⟨left', r', run⟩ := ih (s := s.afterPolls left r (s.delay - 1)) hp (by simp [State.afterPolls, hd]) fewer
    exact ⟨left', r', fun n => by rw [Nat.succ_add, run_next (k + n) turn, run]; rfl⟩

end Sys2Proof.Says

namespace Sys2Proof.Proofs

open Sys2Proof.Machine Sys2Proof.Says

/-- Settles O52, register by register, each with its column of the footprint table. -/
theorem resultRegistersHaveTheirWriters : Obligations.ResultRegistersHaveTheirWriters := by
  intro s t h
  exact ⟨changed_result_cases (piece := State.acc) (·.acc) (·.acc) (fun _ _ _ => rfl) h,
    changed_result_cases (piece := State.chk) (·.chk) (·.chk) (fun _ _ _ => rfl) h,
    changed_result_cases (piece := State.flg) (·.flg) (·.flg) (fun _ _ _ => rfl) h,
    changed_result_cases (piece := State.plen) (·.plen) (·.plen) (fun _ _ _ => rfl) h,
    changed_result_cases (piece := State.txlen) (·.txlen) (·.txlen) (fun _ _ _ => rfl) h,
    changed_result_cases (piece := State.valid) (·.valid) (·.valid) (fun _ _ _ => rfl) h,
    changed_result_cases (piece := State.t) (·.tFlag) (·.tFlag) (fun _ _ _ => rfl) h⟩

/-- Settles O53: an accepted `BufWrite` that changes byte `a` is one of byte `a`. -/
theorem bufferHasItsWriters : Obligations.BufferHasItsWriters := by
  intro s t a h changed
  rcases changed_piece_cases (piece := (byte · a)) (writes := (writesByte · a)) (·.bytes a) (·.bytes a) h changed with
    ⟨hp, x, b, rest, hh, hx, stored⟩ | writers
  · by_cases here : x.toNat = a
    · subst here
      exact .inl ⟨hp, x, b, rest, hh, rfl, hx, stored.trans (Memory.read_write_same ..)⟩
    · exact absurd (stored.trans (Memory.read_write_ne b (Ne.symm here))) changed
  · exact .inr writers

/-- Settles O54: the polls of the latency, and then the completion, which polling leaves as it was. -/
theorem pollingReachesCompletion : Obligations.PollingReachesCompletion := by
  intro s i hp hi pass polls
  obtain ⟨left, r, run⟩ := run_polls hp rfl polls
  have due : engineTurn (s.afterPolls left r 0) = true := (engineTurn_iff _).mpr ⟨hp, rfl⟩
  have completion : step (s.afterPolls left r 0) = .next ((effect pcodec i s).afterPolls left r 0).finish := by
    rw [step_complete due hi, exec_of_pass pass, effect_afterPolls, finishOutcome]
  have answers := exec_of_pass pass s
  have notFaulted := (exec_sameControl pass answers).fault.trans ((phase_busy_iff s).mp hp).1
  generalize effect pcodec i s = u at completion answers notFaulted
  exact ⟨u, _, answers, (run 1).trans ((run_next 0 completion).trans (run_zero _)), rfl,
    (phase_idle_iff _).mpr ⟨notFaulted, rfl⟩⟩

end Sys2Proof.Proofs
end
